-- ==== Sys2Proof/Word.lean ====
section
/-! DEFINITION. The words of the hardware: bytes, 16-bit words, and the operand fields of an instruction
word (rules R7, R10, R81, R82). -/

namespace Sys2Proof

/-- An 8-bit value: a general register, a memory byte, a display cell, a timer (rule R20). -/
abbrev Byte := BitVec 8

/-- A 16-bit value: `I`, `pc`, a stack entry, an instruction word (rules R20, R80). -/
abbrev Word := BitVec 16

/-- A register number, the field `x` or `y` of an instruction word: 0 to 15 (rules R21, R82). -/
abbrev Reg := BitVec 4

/-- The 12-bit operand `addr` (rule R82). -/
abbrev Addr12 := BitVec 12

/-- A 4-bit field, such as the sprite height `n` (rule R82). -/
abbrev Nibble := BitVec 4

end Sys2Proof
end

