-- ==== Sys2Proof/Config.lean ====
section
/-! DEFINITION. What the hardware fixes (rule R5), what the spec leaves to a parameter (rule R6), and the
inputs the host draws (rules R221, R223). An `opaque` constant is a free value: it has no body, so a theorem
about it holds whatever it is. -/

namespace Sys2Proof

/-- The keypad sample of one step (rule R223): which logical keys 0 to 15 are held, as a 16-bit mask whose
bit `k` is `KeyDown(k)`, and the most recently pressed key, if any. No relation is assumed between the two
(rule R224). -/
structure KeypadSample where
  down : BitVec 16
  last : Option (BitVec 4)
deriving DecidableEq, Repr, Inhabited

/-- What the host does before and for one step: how many times it calls `tick` at the instruction boundary
(rule R221), then the keypad sample it hands to the step (rule R223). -/
structure HostTurn where
  ticks  : Nat
  sample : KeypadSample
deriving DecidableEq, Repr, Inhabited

namespace Config

/-! ## Fixed parameters (rule R5) -/

/-- `MEM_SIZE`: 4096 bytes, addresses 0x000 to 0xFFF. -/
abbrev memSize : Nat := 4096

/-- `RESERVED_END`: addresses below it are "reserved for interpreter use", which protects nothing (rule R31). -/
abbrev reservedEnd : Nat := 0x200

/-- `FONT_BASE`: the font table's address. -/
abbrev fontBase : Nat := 0x000

/-- `FONT_GLYPHS`: glyphs in the font table. -/
abbrev fontGlyphs : Nat := 16

/-- `FONT_GLYPH_BYTES`: bytes of a glyph. -/
abbrev fontGlyphBytes : Nat := 5

/-- The 80 bytes of the font table in all. -/
abbrev fontBytes : Nat := fontGlyphs * fontGlyphBytes

/-- `PROG_BASE`: where a program is loaded. -/
abbrev progBase : Nat := 0x200

/-- `PROG_MAX_LEN`: 3584 bytes. -/
abbrev progMaxLen : Nat := 3584

/-- `DISP_W`: columns of the display. -/
abbrev dispW : Nat := 64

/-- `DISP_H`: rows of the display. -/
abbrev dispH : Nat := 32

/-- `CELL_OFF`. -/
abbrev cellOff : Byte := 0x00#8

/-- `CELL_ON`. -/
abbrev cellOn : Byte := 0xFF#8

/-- `NUM_V`: general registers. -/
abbrev numV : Nat := 16

/-- `I_WIDTH`: bits of the index register. -/
abbrev iWidth : Nat := 16

/-- `PC_WIDTH`: bits of the program counter, and of the addresses on the call stack. -/
abbrev pcWidth : Nat := 16

/-- `STACK_DEPTH`: entries of the call stack. -/
abbrev stackDepth : Nat := 16

/-- `PC_RESET`. -/
abbrev pcReset : BitVec pcWidth := 0x0200#16

/-- `INSTR_BYTES`: the default advance of `pc`. -/
abbrev instrBytes : BitVec pcWidth := 2#16

/-- What a taken skip adds to `pc`: the skip and the skipped instruction (rule R105). -/
abbrev skipBytes : BitVec pcWidth := 4#16

/-- `NUM_KEYS`: logical keys 0 to 15. -/
abbrev numKeys : Nat := 16

/-- `TICK_HZ`: how often a second the host owes a tick; no rule of the machine depends on it. -/
abbrev tickHz : Nat := 60

/-- The number of the flag register `VF` (rule R22). -/
abbrev flagReg : Reg := 0xF#4

/-! ## Parameters the spec gives a default (rule R6)

The values the machine of the fixed names `exec`, `step`, `State.reset` takes. Machine/Parameters.lean is the
machine under any other. -/

/-- `FX65_INCLUSIVE`, default false: `Fx65` loads `V[0]` to `V[x-1]` (rule R165, decision D5).
DESIGN CHOICE, the spec's own, unsafe for claims about `Fx65` if the chip loads `V[x]` too: log entry 7. -/
def fx65Inclusive : Bool := false

/-- `VF_LAST`, default true: the flag write lands after the result write (rule R140, decision D7).
DESIGN CHOICE, the spec's own, unsafe for claims about a flag-writing instruction with `x = 0xF` if the chip
writes the result last: log entry 8. -/
def vfLast : Bool := true

/-- `FONT`, default the customary hexadecimal font (rule R33, decision D12), glyph after glyph, top row first.
PRESUMED by the spec from general knowledge, unsafe for claims about glyph shapes: log entry 6. -/
def font : List Byte :=
  [0xF0, 0x90, 0x90, 0x90, 0xF0,  0x20, 0x60, 0x20, 0x20, 0x70,
   0xF0, 0x10, 0xF0, 0x80, 0xF0,  0xF0, 0x10, 0xF0, 0x10, 0xF0] ++
  [0x90, 0x90, 0xF0, 0x10, 0x10,  0xF0, 0x80, 0xF0, 0x10, 0xF0,
   0xF0, 0x80, 0xF0, 0x90, 0xF0,  0xF0, 0x10, 0x20, 0x40, 0x40] ++
  [0xF0, 0x90, 0xF0, 0x90, 0xF0,  0xF0, 0x90, 0xF0, 0x10, 0xF0,
   0xF0, 0x90, 0xF0, 0x90, 0x90,  0xE0, 0x90, 0xE0, 0x90, 0xE0] ++
  [0xF0, 0x80, 0x80, 0x80, 0xF0,  0xE0, 0x90, 0x90, 0x90, 0xE0,
   0xF0, 0x80, 0xF0, 0x80, 0xF0,  0xF0, 0x80, 0xF0, 0x80, 0x80]

/-! ## Free values -/

/-- `SEED`, the construction argument, for which the spec gives no default (rules R6, R36, decision D11).
Free, safe: log entry 4. -/
opaque seed : Byte

/-- `RNG_STEP`, "a total function on 8-bit values of which the machine assumes nothing except that the result
depends on the argument alone" (rule R37). Free, safe: log entry 5. -/
opaque rngStep : Byte → Byte

/-- The spec's own default of `RNG_STEP`: one step of the Galois shift register with tap mask 0xB8, shifting
right (rule R37). The machine does not use it; a claim that needs it takes `Config.rngStep = Config.lfsrStep`
as a hypothesis. -/
def lfsrStep (s : Byte) : Byte :=
  if s.getLsbD 0 then (s >>> 1) ^^^ 0xB8#8 else s >>> 1

/-- The host's turn number `n`, where the state announces none: any number of ticks and any keypad sample
(rules R221, R224, decisions D10, D16). Free, safe: log entries 2 and 3. -/
opaque freeTurn : Nat → HostTurn

/-- Whether the hexadecimal digit in a given character of a given line of the debug dump is written as a capital,
which rule R229 does not state: digit by digit, so a dump of mixed case is none of the model's exclusions. Free,
safe: log entry 23. -/
opaque dumpUpperCase (line column : Nat) : Bool

end Config

/-! ## The named arguments of the model (rule R6) -/

/-- The parameters the source leaves open, "each a named argument of the model" (rule R6). They are no state
(rule R39): a machine is constructed with them and nothing changes them. -/
structure Parameters where
  /-- `SEED`, the construction argument. -/
  seed          : Byte
  /-- `RNG_STEP`, a total function on bytes (rule R37). -/
  rngStep       : Byte → Byte
  /-- `FONT`, 80 bytes (rule R33). -/
  font          : Vector Byte Config.fontBytes
  /-- `FX65_INCLUSIVE` (rule R165). -/
  fx65Inclusive : Bool
  /-- `VF_LAST` (rule R140). -/
  vfLast        : Bool

/-- The values of the machine of the fixed names: the seed and the step function free, the rest at the spec's
defaults. -/
def Config.parameters : Parameters where
  seed          := Config.seed
  rngStep       := Config.rngStep
  font          := ⟨Config.font.toArray, rfl⟩
  fx65Inclusive := Config.fx65Inclusive
  vfLast        := Config.vfLast

end Sys2Proof
end

