-- ==== Sys2Proof/Syntax.lean ====
section
/-! DEFINITION. The instructions: one constructor per row of the opcode table of rule R86, in its order. Each
operand has the type of its field, so every term is an instruction of the hardware (rule R88). -/

namespace Sys2Proof

/-- The 34 instructions of rule R86. -/
inductive Instr where
  /-- `00E0`, CLS (R181). -/
  | cls
  /-- `00EE`, RET (R120). -/
  | ret
  /-- `1nnn`, JP addr (R121). -/
  | jp (addr : Addr12)
  /-- `2nnn`, CALL addr (R122). -/
  | call (addr : Addr12)
  /-- `3xkk`, SE Vx, byte (R123). -/
  | seByte (x : Reg) (kk : Byte)
  /-- `4xkk`, SNE Vx, byte (R124). -/
  | sneByte (x : Reg) (kk : Byte)
  /-- `5xy0`, SE Vx, Vy (R125). -/
  | seReg (x y : Reg)
  /-- `6xkk`, LD Vx, byte (R141). -/
  | ldByte (x : Reg) (kk : Byte)
  /-- `7xkk`, ADD Vx, byte (R142). -/
  | addByte (x : Reg) (kk : Byte)
  /-- `8xy0`, LD Vx, Vy (R143). -/
  | ldReg (x y : Reg)
  /-- `8xy1`, OR Vx, Vy (R144). -/
  | orReg (x y : Reg)
  /-- `8xy2`, AND Vx, Vy (R145). -/
  | andReg (x y : Reg)
  /-- `8xy3`, XOR Vx, Vy (R146). -/
  | xorReg (x y : Reg)
  /-- `8xy4`, ADD Vx, Vy (R147). -/
  | addReg (x y : Reg)
  /-- `8xy5`, SUB Vx, Vy (R148). -/
  | subReg (x y : Reg)
  /-- `8xy6`, SHR Vx; `y` is decoded and not used (R149). -/
  | shr (x y : Reg)
  /-- `8xy7`, SUBN Vx, Vy (R150). -/
  | subnReg (x y : Reg)
  /-- `8xyE`, SHL Vx; `y` is decoded and not used (R151). -/
  | shl (x y : Reg)
  /-- `9xy0`, SNE Vx, Vy (R126). -/
  | sneReg (x y : Reg)
  /-- `Annn`, LD I, addr (R160). -/
  | ldI (addr : Addr12)
  /-- `Bnnn`, JP V0, addr (R127). -/
  | jpV0 (addr : Addr12)
  /-- `Cxkk`, RND Vx, byte (R196). -/
  | rnd (x : Reg) (kk : Byte)
  /-- `Dxyn`, DRW Vx, Vy, nibble (R182). -/
  | drw (x y : Reg) (n : Nibble)
  /-- `Ex9E`, SKP Vx (R190). -/
  | skp (x : Reg)
  /-- `ExA1`, SKNP Vx (R191). -/
  | sknp (x : Reg)
  /-- `Fx07`, LD Vx, DT (R193). -/
  | ldVxDt (x : Reg)
  /-- `Fx0A`, LD Vx, K (R192). -/
  | ldVxK (x : Reg)
  /-- `Fx15`, LD DT, Vx (R194). -/
  | ldDtVx (x : Reg)
  /-- `Fx18`, LD ST, Vx (R195). -/
  | ldStVx (x : Reg)
  /-- `Fx1E`, ADD I, Vx (R161). -/
  | addI (x : Reg)
  /-- `Fx29`, LD F, Vx (R162). -/
  | ldF (x : Reg)
  /-- `Fx33`, LD B, Vx (R163). -/
  | ldB (x : Reg)
  /-- `Fx55`, LD [I], Vx (R164). -/
  | ldIVx (x : Reg)
  /-- `Fx65`, LD Vx, [I] (R165). -/
  | ldVxI (x : Reg)
deriving DecidableEq, Repr

/-- The instruction's name in the opcode table. Names carry no semantics (rule R91). -/
def Instr.mnemonic : Instr → String
  | .cls => "CLS"
  | .ret => "RET"
  | .jp _ => "JP_addr"
  | .call _ => "CALL_addr"
  | .seByte _ _ => "SE_Vx__byte"
  | .sneByte _ _ => "SNE_Vx__byte"
  | .seReg _ _ => "SE_Vx__Vy"
  | .ldByte _ _ => "LD_Vx__byte"
  | .addByte _ _ => "ADD_Vx__byte"
  | .ldReg _ _ => "LD_Vx__Vy"
  | .orReg _ _ => "OR_Vx__Vy"
  | .andReg _ _ => "AND_Vx__Vy"
  | .xorReg _ _ => "XOR_Vx__Vy"
  | .addReg _ _ => "ADD_Vx__Vy"
  | .subReg _ _ => "SUB_Vx__Vy"
  | .shr _ _ => "SHR_Vx"
  | .subnReg _ _ => "SUBN_Vx__Vy"
  | .shl _ _ => "SHL_Vx"
  | .sneReg _ _ => "SNE_Vx__Vy"
  | .ldI _ => "LD_I__addr"
  | .jpV0 _ => "JP_V0__addr"
  | .rnd _ _ => "RND_Vx__byte"
  | .drw _ _ _ => "DRW_Vx__Vy__nibble"
  | .skp _ => "SKP_Vx"
  | .sknp _ => "SKNP_Vx"
  | .ldVxDt _ => "LD_Vx__DT"
  | .ldVxK _ => "LD_Vx__K"
  | .ldDtVx _ => "LD_DT__Vx"
  | .ldStVx _ => "LD_ST__Vx"
  | .addI _ => "ADD_I__Vx"
  | .ldF _ => "LD_F__Vx"
  | .ldB _ => "LD_B__Vx"
  | .ldIVx _ => "LD__I___Vx"
  | .ldVxI _ => "LD_Vx___I"

end Sys2Proof
end

