-- ==== Sys2Proof/Decode.lean ====
section
/-! DEFINITION. The decoder, by the two-level dispatch of rule R83, and the encoder, by the encoding column of
rule R86. -/

namespace Sys2Proof

/-! ## Fields (rule R10) -/

/-- `op = instr[15:12]`. -/
def opField (w : Word) : Nibble := w.extractLsb' 12 4

/-- `x = instr[11:8]`. -/
def xField (w : Word) : Reg := w.extractLsb' 8 4

/-- `y = instr[7:4]`. -/
def yField (w : Word) : Reg := w.extractLsb' 4 4

/-- `n = instr[3:0]`. -/
def nField (w : Word) : Nibble := w.extractLsb' 0 4

/-- `kk = instr[7:0]`. -/
def kkField (w : Word) : Byte := w.extractLsb' 0 8

/-- `addr = instr[11:0]`. -/
def addrField (w : Word) : Addr12 := w.extractLsb' 0 12

/-! ## Decoder -/

/-- Why bytes are no instruction. -/
inductive DecodeError where
  /-- The word matches no row of rule R86 (rule R87). -/
  | unknown (instr : Word)
  /-- Fewer than the two bytes every instruction has (rule R80). -/
  | truncated
deriving DecidableEq, Repr

/-- Family 0x0: the whole word is fixed (rules R83, R85). -/
def decodeSystem (w : Word) : Option Instr :=
  if addrField w = 0x0E0#12 then some .cls
  else if addrField w = 0x0EE#12 then some .ret
  else none

/-- Family 0x8: the low nibble selects (rule R83). -/
def decodeAlu (w : Word) : Option Instr :=
  let x := xField w
  let y := yField w
  match (nField w).toNat with
  | 0x0 => some (.ldReg x y)
  | 0x1 => some (.orReg x y)
  | 0x2 => some (.andReg x y)
  | 0x3 => some (.xorReg x y)
  | 0x4 => some (.addReg x y)
  | 0x5 => some (.subReg x y)
  | 0x6 => some (.shr x y)
  | 0x7 => some (.subnReg x y)
  | 0xE => some (.shl x y)
  | _ => none

/-- Family 0xE: the low byte selects (rule R83). -/
def decodeKeypad (w : Word) : Option Instr :=
  if kkField w = 0x9E#8 then some (.skp (xField w))
  else if kkField w = 0xA1#8 then some (.sknp (xField w))
  else none

/-- Family 0xF: the low byte selects (rule R83). -/
def decodeMisc (w : Word) : Option Instr :=
  let x := xField w
  let kk := kkField w
  if kk = 0x07#8 then some (.ldVxDt x)
  else if kk = 0x0A#8 then some (.ldVxK x)
  else if kk = 0x15#8 then some (.ldDtVx x)
  else if kk = 0x18#8 then some (.ldStVx x)
  else if kk = 0x1E#8 then some (.addI x)
  else if kk = 0x29#8 then some (.ldF x)
  else if kk = 0x33#8 then some (.ldB x)
  else if kk = 0x55#8 then some (.ldIVx x)
  else if kk = 0x65#8 then some (.ldVxI x)
  else none

/-- The first level: the top nibble selects a family (rule R83). In families 0x5 and 0x9 the low nibble must
be 0 (rule R85). -/
def decodeFamily (w : Word) : Option Instr :=
  let x := xField w
  let y := yField w
  let kk := kkField w
  let addr := addrField w
  match (opField w).toNat with
  | 0x0 => decodeSystem w
  | 0x1 => some (.jp addr)
  | 0x2 => some (.call addr)
  | 0x3 => some (.seByte x kk)
  | 0x4 => some (.sneByte x kk)
  | 0x5 => if nField w = 0#4 then some (.seReg x y) else none
  | 0x6 => some (.ldByte x kk)
  | 0x7 => some (.addByte x kk)
  | 0x8 => decodeAlu w
  | 0x9 => if nField w = 0#4 then some (.sneReg x y) else none
  | 0xA => some (.ldI addr)
  | 0xB => some (.jpV0 addr)
  | 0xC => some (.rnd x kk)
  | 0xD => some (.drw x y (nField w))
  | 0xE => decodeKeypad w
  | 0xF => decodeMisc w
  | _ => none

/-- The instruction of a fetched word, or the word itself where it is none (rules R102, R87). -/
def decode (w : Word) : Except DecodeError Instr :=
  match decodeFamily w with
  | some i => .ok i
  | none => .error (.unknown w)

/-- The word of two consecutive bytes, the one at the lower address first: big-endian,
`mem[pc] << 8 | mem[pc+1]` (rule R50). -/
def wordOfBytes (hi lo : Byte) : Word := hi.setWidth 16 <<< 8 ||| lo.setWidth 16

/-- The byte stored at the lower address: bits 15:8 (rule R50). -/
def highByte (w : Word) : Byte := w.extractLsb' 8 8

/-- The byte stored at the higher address: bits 7:0 (rule R50). -/
def lowByte (w : Word) : Byte := w.extractLsb' 0 8

/-- The first instruction of a string of bytes, and the bytes after it. -/
def decodeBytes : List Byte → Except DecodeError (Instr × List Byte)
  | hi :: lo :: rest =>
    match decode (wordOfBytes hi lo) with
    | .ok i => .ok (i, rest)
    | .error e => .error e
  | _ => .error .truncated

/-! ## Encoder (rule R86, the encoding column) -/

/-- Format NNN (rule R81). -/
def encodeNNN (op : Nibble) (addr : Addr12) : Word := op.setWidth 16 <<< 12 ||| addr.setWidth 16

/-- Format XKK (rule R81); format XSS is the same with a fixed `kk`. -/
def encodeXKK (op : Nibble) (x : Reg) (kk : Byte) : Word :=
  op.setWidth 16 <<< 12 ||| x.setWidth 16 <<< 8 ||| kk.setWidth 16

/-- Format XYN (rule R81). -/
def encodeXYN (op : Nibble) (x y : Reg) (n : Nibble) : Word :=
  op.setWidth 16 <<< 12 ||| x.setWidth 16 <<< 8 ||| y.setWidth 16 <<< 4 ||| n.setWidth 16

/-- The word of an instruction. -/
def encode : Instr → Word
  | .cls => 0x00E0#16
  | .ret => 0x00EE#16
  | .jp addr => encodeNNN 0x1#4 addr
  | .call addr => encodeNNN 0x2#4 addr
  | .seByte x kk => encodeXKK 0x3#4 x kk
  | .sneByte x kk => encodeXKK 0x4#4 x kk
  | .seReg x y => encodeXYN 0x5#4 x y 0x0#4
  | .ldByte x kk => encodeXKK 0x6#4 x kk
  | .addByte x kk => encodeXKK 0x7#4 x kk
  | .ldReg x y => encodeXYN 0x8#4 x y 0x0#4
  | .orReg x y => encodeXYN 0x8#4 x y 0x1#4
  | .andReg x y => encodeXYN 0x8#4 x y 0x2#4
  | .xorReg x y => encodeXYN 0x8#4 x y 0x3#4
  | .addReg x y => encodeXYN 0x8#4 x y 0x4#4
  | .subReg x y => encodeXYN 0x8#4 x y 0x5#4
  | .shr x y => encodeXYN 0x8#4 x y 0x6#4
  | .subnReg x y => encodeXYN 0x8#4 x y 0x7#4
  | .shl x y => encodeXYN 0x8#4 x y 0xE#4
  | .sneReg x y => encodeXYN 0x9#4 x y 0x0#4
  | .ldI addr => encodeNNN 0xA#4 addr
  | .jpV0 addr => encodeNNN 0xB#4 addr
  | .rnd x kk => encodeXKK 0xC#4 x kk
  | .drw x y n => encodeXYN 0xD#4 x y n
  | .skp x => encodeXKK 0xE#4 x 0x9E#8
  | .sknp x => encodeXKK 0xE#4 x 0xA1#8
  | .ldVxDt x => encodeXKK 0xF#4 x 0x07#8
  | .ldVxK x => encodeXKK 0xF#4 x 0x0A#8
  | .ldDtVx x => encodeXKK 0xF#4 x 0x15#8
  | .ldStVx x => encodeXKK 0xF#4 x 0x18#8
  | .addI x => encodeXKK 0xF#4 x 0x1E#8
  | .ldF x => encodeXKK 0xF#4 x 0x29#8
  | .ldB x => encodeXKK 0xF#4 x 0x33#8
  | .ldIVx x => encodeXKK 0xF#4 x 0x55#8
  | .ldVxI x => encodeXKK 0xF#4 x 0x65#8

/-! ## The opcode table's view of a word -/

/-- The bytes of an instruction whose bits are numbered as the opcode table numbers them: one 16-bit word,
bit 0 its least significant bit, stored big-endian (rules R7, R50, R80). -/
def tableBytes (nbits w : Nat) : List Byte :=
  let word : Word := BitVec.ofNat 16 (w % 2 ^ nbits)
  [highByte word, lowByte word]

/-- The instruction this decoder reads from an instruction whose bits are `w`; nothing where it refuses, or
where more bits are given than the 16 an instruction has (rule R80). -/
def decodeTableWord (nbits w : Nat) : Option Instr :=
  if nbits ≤ 16 then
    match decodeBytes (tableBytes nbits w) with
    | .ok (i, _) => some i
    | .error _ => none
  else none

end Sys2Proof
end

