-- ==== Sys2Proof/Machine/State.lean ====
section
/-! DEFINITION. The state of the machine (rule R20) as plain data and, beside it, the inputs of a step; the reasons a
step can stop (rule R211); the state after reset (rule R40). -/

namespace Sys2Proof.Machine

/-- The faults: exactly the five kinds of rule R211, each with the information that rule says it records. A
fault keeps no write of the step that raises it (rule R215): the state is the one before the step. -/
inductive Fault where
  /-- Raised at decode by every step whose fetched word is no row of the opcode map (rules R87, R210). The word
  is recorded. The 7,710 words on which the spec's sources disagree are among them (decision D8): safe. -/
  | unknownInstruction (instr : Word)
  /-- Raised by a fetch with `pc > 0xFFE` (the value recorded is `pc`) and by `Dxyn`, `Fx33`, `Fx55`, `Fx65`
  whose highest effective address exceeds 0xFFF (the value is the lowest such address) (rules R55, R219).
  For data accesses decision D1: safe. -/
  | memoryFault (addr : Nat)
  /-- Raised by `2nnn` when the call stack is full (rule R212, decision D3): safe. -/
  | stackOverflow
  /-- Raised by `00EE` when the call stack is empty (rule R213, decision D3): safe. -/
  | stackUnderflow
  /-- Raised by `Ex9E` and `ExA1` when `V[x] > 15`; the value of `V[x]` is recorded (rule R214, decision D9):
  safe. -/
  | keyIndexFault (key : Byte)
deriving DecidableEq, Repr

/-- The refusals. No instruction with a meaning refuses; the last three are calls of the host outside its
contract (rules R228, R243, R244, decision D19). -/
inductive Refusal where
  /-- Raised only by an arm of `exec` whose instruction has no meaning yet: safe. -/
  | notModelled (mnemonic : String)
  /-- Raised by the host call `load` with more than 3584 bytes (rule R243): safe. -/
  | programTooLong
  /-- Raised by a host call `load` after the one `load` (rule R244): safe. -/
  | alreadyLoaded
  /-- Raised by a host call that is legal only after `load` (rule R244): safe. -/
  | notLoaded
deriving DecidableEq, Repr

/-- The outcome of an instruction or of a step. -/
abbrev Out (σ : Type) := Host.Outcome σ Fault Refusal

/-- The contents of memory: the cells whose byte differs from what the address reads as after reset, addresses
strictly rising (log entry 19). -/
abbrev Memory := List Host.Cell

/-- The display buffer: 32 rows of 64 cells, one byte a cell (rule R34). -/
abbrev FrameBuffer := Vector (Vector Byte Config.dispW) Config.dispH

/-- The architectural state: exactly the ten components of rule R20. -/
structure Hardware where
  /-- `V[0]` to `V[15]` (rules R21, R22). -/
  v     : Vector Byte Config.numV
  /-- The index register `I` (rule R25). -/
  i     : BitVec Config.iWidth
  /-- The program counter (rules R23, R24). -/
  pc    : BitVec Config.pcWidth
  /-- The number of entries in use on the call stack, 0 to `Config.stackDepth` (rule R26). -/
  sp    : Fin 17
  /-- The call stack, `Config.stackDepth` entries (rule R27). -/
  stack : Vector (BitVec Config.pcWidth) 16
  /-- The delay timer `DT` (rule R28). -/
  dt    : Byte
  /-- The sound timer `ST` (rule R29). -/
  st    : Byte
  /-- Memory (rules R30 to R33). -/
  mem   : Memory
  /-- The display buffer `FB` (rules R34, R35). -/
  fb    : FrameBuffer
  /-- The pseudo-random generator's state (rule R36). -/
  rng   : Byte
deriving DecidableEq, Repr

/-- The architectural state together with the inputs of the step (rule R39), which are no state of the hardware:
`exec` and `step` take one argument, so what the host hands them travels beside the ten components (log entry 2).
`Hardware.stepWith` is the step of rule R100 on the ten components alone. -/
structure State extends Hardware where
  /-- The model's own: the keypad sample of the step being executed (rule R223). -/
  keys    : KeypadSample
  /-- The model's own: the host's turns already announced, oldest first (rules R221, R223). -/
  pending : List HostTurn
  /-- The model's own: how many turns have been taken, the index of the free turns. -/
  turn    : Nat
deriving DecidableEq, Repr

/-- The state after reset (rules R40, R241, R242). `rng` is the free value `SEED`, log entry 4. -/
def Hardware.reset : Hardware where
  v     := Vector.replicate Config.numV 0x00#8
  i     := 0x0000#16
  pc    := Config.pcReset
  sp    := 0
  stack := Vector.replicate 16 0x0000#16
  dt    := 0x00#8
  st    := 0x00#8
  mem   := []
  fb    := Vector.replicate Config.dispH (Vector.replicate Config.dispW Config.cellOff)
  rng   := Config.seed

/-- The state after reset, and no input yet. The values of `keys`, `pending` and `turn` are DESIGN CHOICE, log
entry 2. -/
def State.reset : State where
  toHardware := Hardware.reset
  keys       := { down := 0#16, last := none }
  pending    := []
  turn       := 0

end Sys2Proof.Machine
end

