-- ==== Sys2Proof/Machine/Ops.lean ====
section
/-! DEFINITION. The named operations over memory, registers, the call stack, the display, the timers and the
random source, raising a fault, and the host's turn. -/

namespace Sys2Proof.Machine

/-! ## Memory (rules R30 to R33, R50 to R60) -/

/-- What an address reads as after reset: the font table at 0x000 to 0x04F, zero elsewhere (rule R40). -/
def Memory.unlisted (a : Nat) : Byte :=
  if a < Config.fontBase then 0x00#8 else (Config.font[a - Config.fontBase]?).getD 0x00#8

/-- The byte at an address. It has no side effect (rule R58). -/
def Memory.read : Memory → Nat → Byte
  | [], a => Memory.unlisted a
  | (b, v) :: rest, a => if b = a then v else Memory.read rest a

/-- The contents without an entry for the address. -/
def Memory.erase : Memory → Nat → Memory
  | [], _ => []
  | (b, v) :: rest, a => if b = a then Memory.erase rest a else (b, v) :: Memory.erase rest a

/-- The contents with an entry for the address put in its place. -/
def Memory.insert : Memory → Nat → Byte → Memory
  | [], a, v => [(a, v)]
  | (b, w) :: rest, a, v => if a < b then (a, v) :: (b, w) :: rest else (b, w) :: Memory.insert rest a v

/-- Stores a byte (rule R58), keeping the canonical form: the value the address has after reset is not
listed. -/
def Memory.write (m : Memory) (a : Nat) (v : Byte) : Memory :=
  if v = Memory.unlisted a then m.erase a else (m.erase a).insert a v

/-- The canonical form: addresses strictly rising, all of them in memory (rule R55), no entry equal to what the
address reads as unlisted. -/
abbrev Memory.wf (m : Memory) : Prop :=
  m.Pairwise (fun p q => p.1 < q.1) ∧ ∀ p ∈ m, p.1 < Config.memSize ∧ p.2 ≠ Memory.unlisted p.1

/-- Stores bytes at rising addresses from `base` (rule R51). -/
def Memory.writeBytes : Memory → Nat → List Byte → Memory
  | m, _, [] => m
  | m, base, b :: bs => Memory.writeBytes (m.write base b) (base + 1) bs

/-! ## Raising a fault -/

/-- Ends the step with a fault (rules R9, R215, R225): nothing the step wrote is kept, no register is saved, no
handler runs. There is no return from a fault (rule R227). -/
def raise {σ : Type} (f : Fault) : Out σ := .fault f

/-- Whether `count` bytes from the effective address `base` all lie in memory. The addresses are natural
numbers and do not wrap (rules R55, R56). -/
def inMemory (base count : Nat) : Bool := count = 0 || base + count ≤ Config.memSize

/-- The lowest effective address above 0xFFF of an access from `base` that leaves memory (rule R211). -/
def firstOutside (base : Nat) : Nat := max base Config.memSize

/-- Goes on only where `count` bytes from `base` lie in memory; else the whole instruction faults and no byte
is accessed (rules R56, R57). -/
def guardRange {σ : Type} (base count : Nat) (go : Out σ) : Out σ :=
  if inMemory base count then go else raise (.memoryFault (firstOutside base))

/-! ## Registers (rules R21 to R25) -/

/-- `V[x]`. -/
def State.getV (s : State) (x : Reg) : Byte := s.v[x.toNat]'x.isLt

/-- `V[x] <- b`. -/
def State.setV (s : State) (x : Reg) (b : Byte) : State := { s with v := s.v.set x.toNat b x.isLt }

/-- `I <- w`. -/
def State.setI (s : State) (w : BitVec Config.iWidth) : State := { s with i := w }

/-- `pc <- w`: an explicit assignment, which replaces the default advance (rule R105). -/
def State.setPc (s : State) (w : BitVec Config.pcWidth) : State := { s with pc := w }

/-- The default advance, `pc <- trunc_16(pc + 2)` (rule R105). -/
def State.advance (s : State) : State := s.setPc (s.pc + Config.instrBytes)

/-- The assignment of a skip: `pc + 4` if the condition holds, else `pc + 2` (rule R105). -/
def State.skipIf (s : State) (c : Bool) : State :=
  s.setPc (s.pc + if c then Config.skipBytes else Config.instrBytes)

/-- `DT <- b` (rule R28). -/
def State.setDt (s : State) (b : Byte) : State := { s with dt := b }

/-- `ST <- b` (rule R29). -/
def State.setSt (s : State) (b : Byte) : State := { s with st := b }

/-- The state with other contents of memory. -/
def State.setMem (s : State) (m : Memory) : State := { s with mem := m }

/-- The state with another display buffer. -/
def State.setFb (s : State) (f : FrameBuffer) : State := { s with fb := f }

/-- `rng <- b` (rule R36). -/
def State.setRng (s : State) (b : Byte) : State := { s with rng := b }

/-- `V[0]` to `V[count - 1]`, in that order (rule R164). -/
def State.regBlock (s : State) (count : Nat) : List Byte := s.v.toList.take count

/-- The first `count` general registers loaded from memory, `V[k]` from the address `base + k`; the others as
they were (rule R165). -/
def State.loadBlock (s : State) (base count : Nat) : State :=
  { s with v := Vector.ofFn fun k => if k.val < count then s.mem.read (base + k.val) else s.v[k] }

/-! ## Call stack (rules R26, R27) -/

/-- Writes the next free entry and counts it; nothing where all sixteen are in use (rule R122). -/
def State.push (s : State) (w : BitVec Config.pcWidth) : Option State :=
  if h : s.sp.val < Config.stackDepth then
    some { s with stack := s.stack.set s.sp.val w h, sp := ⟨s.sp.val + 1, Nat.succ_lt_succ h⟩ }
  else none

/-- The entry below the pre-step `sp`, and the state with `sp` one less; the entry keeps its value (rule R120).
Nothing where the stack is empty. -/
def State.pop (s : State) : Option (BitVec Config.pcWidth × State) :=
  if h : s.sp.val = 0 then none
  else some (s.stack[s.sp.val - 1]'(by omega), { s with sp := ⟨s.sp.val - 1, by omega⟩ })

/-! ## Display (rules R34, R180) -/

/-- `get(x, y)`: any natural coordinates, taken modulo 64 and 32 (rule R180). -/
def getCell (f : FrameBuffer) (x y : Nat) : Byte :=
  (f[y % Config.dispH]'(Nat.mod_lt _ (by decide)))[x % Config.dispW]'(Nat.mod_lt _ (by decide))

/-- `set(x, y, val)` (rule R180). -/
def setCell (f : FrameBuffer) (x y : Nat) (b : Byte) : FrameBuffer :=
  f.set (y % Config.dispH)
    ((f[y % Config.dispH]'(Nat.mod_lt _ (by decide))).set (x % Config.dispW) b (Nat.mod_lt _ (by decide)))
    (Nat.mod_lt _ (by decide))

/-- A buffer with every cell off (rule R181). -/
def clearBuffer : FrameBuffer := Vector.replicate Config.dispH (Vector.replicate Config.dispW Config.cellOff)

/-- Whether every cell holds 0x00 or 0xFF (rule R35). -/
abbrev cellsLegal (f : FrameBuffer) : Prop :=
  ∀ row ∈ f, ∀ b ∈ row, b = Config.cellOff ∨ b = Config.cellOn

/-! ## Random source (rules R36, R37) -/

/-- `RandomByte()` under a value of `RNG_STEP`: the generator advances once and its new state is the byte
returned. -/
def State.randomByte (s : State) (rngStep : Byte → Byte) : Byte × State :=
  let r := rngStep s.rng
  (r, s.setRng r)

/-! ## Timers and the host's turn (rules R220, R221, R223) -/

/-- One tick of a timer: one less, held at zero (rule R220). -/
def tickTimer (t : Byte) : Byte := if t = 0x00#8 then 0x00#8 else t - 1#8

/-- The tick operation: both timers, nothing else (rule R220). -/
def Hardware.tick (h : Hardware) : Hardware := { h with dt := tickTimer h.dt, st := tickTimer h.st }

/-- The tick operation, beside the inputs of a step. -/
def State.tick (s : State) : State := { s with toHardware := s.toHardware.tick }

/-- A timer after `n` ticks, in one go. -/
def timerAfter (n : Nat) (t : Byte) : Byte := if t.toNat ≤ n then 0x00#8 else t - BitVec.ofNat 8 n

/-- The ten components after `n` calls of tick. -/
def Hardware.ticks (n : Nat) (h : Hardware) : Hardware :=
  { h with dt := timerAfter n h.dt, st := timerAfter n h.st }

/-- The state after `n` calls of tick. -/
def State.ticks (n : Nat) (s : State) : State := { s with toHardware := s.toHardware.ticks n }

/-- The host's next turn: the oldest one announced, else a free one (log entries 2 and 3). -/
def State.nextTurn (s : State) : HostTurn :=
  match s.pending with
  | t :: _ => t
  | [] => Config.freeTurn s.turn

/-- The keypad sample handed to a step (rule R223). -/
def State.withKeys (s : State) (k : KeypadSample) : State := { s with keys := k }

/-- The host's turn taken: its ticks at the instruction boundary, its keypad sample handed to the step. -/
def State.beginTurn (s : State) : State :=
  { (s.ticks s.nextTurn.ticks).withKeys s.nextTurn.sample with pending := s.pending.tail, turn := s.turn + 1 }

/-- The ten components with a keypad sample to step on, and no further turn announced. -/
def Hardware.given (h : Hardware) (k : KeypadSample) : State :=
  { toHardware := h, keys := k, pending := [], turn := 0 }

/-! ## Loading a program (rule R243) -/

/-- `load(bytes)`: copies the bytes to 0x200 and on, and writes nothing else (rule R243). -/
def Hardware.load (h : Hardware) (bytes : List Byte) : Hardware :=
  { h with mem := h.mem.writeBytes Config.progBase bytes }

/-- `load(bytes)`, beside the inputs of a step. -/
def State.load (s : State) (bytes : List Byte) : State := { s with toHardware := s.toHardware.load bytes }

end Sys2Proof.Machine
end

