-- ==== Sys2Proof/Machine/Operands.lean ====
section
/-! DEFINITION. The operand forms: immediates and addresses are zero-extended (rule R82), memory is addressed
through `I` alone (rule R56), a sprite is addressed by two registers (rule R180). -/

namespace Sys2Proof.Machine

/-- `zext_16(addr)`, to the width of the register it goes to (rule R82). -/
def addrOperand (width : Nat) (addr : Addr12) : BitVec width := addr.setWidth width

/-- `zext_16(V[x])`, to the width of the register it goes to (rules R127, R161, R162). -/
def State.wideV (s : State) (width : Nat) (x : Reg) : BitVec width := (s.getV x).setWidth width

/-- The effective address of element 0, `I` as a natural number; element `k` is at this plus `k`, with no
truncation (rule R56). -/
def State.base (s : State) : Nat := s.i.toNat

/-- How many bytes `Fx55` stores: `x + 1` (rule R164). -/
def storeCount (x : Reg) : Nat := x.toNat + 1

/-- How many bytes `Fx65` loads, under a value of `FX65_INCLUSIVE`: `x`, or `x + 1` (rule R165). -/
def loadCount (inclusive : Bool) (x : Reg) : Nat := if inclusive then x.toNat + 1 else x.toNat

/-- The three bytes `Fx33` stores: hundreds, tens, units (rule R163). -/
def bcdBytes (a : Byte) : List Byte :=
  [BitVec.ofNat 8 (a.toNat / 100), BitVec.ofNat 8 (a.toNat / 10 % 10), BitVec.ofNat 8 (a.toNat % 10)]

/-- `KeyDown(k)`, of the sample handed to this step (rule R223). -/
def State.keyDown (s : State) (k : Byte) : Bool := s.keys.down.getLsbD k.toNat

/-- `KeyLast()`, of the sample handed to this step (rule R223). -/
def State.keyLast (s : State) : Option (BitVec 4) := s.keys.last

/-- Goes on only where `V[x]` is a key number, 0 to 15; it is not masked (rules R190, R191, R214). -/
def State.guardKey {σ : Type} (s : State) (x : Reg) (go : Byte → Out σ) : Out σ :=
  if (s.getV x).toNat < Config.numKeys then go (s.getV x) else raise (.keyIndexFault (s.getV x))

end Sys2Proof.Machine
end

