-- ==== Sys2Proof/Machine/ControlFlow.lean ====
section
/-! DEFINITION. Control transfer: `00EE`, `1nnn`, `2nnn`, `3xkk`, `4xkk`, `5xy0`, `9xy0`, `Bnnn` (rules R120 to
R127). Each assigns `pc` itself, so the default advance does not apply (rule R105). -/

namespace Sys2Proof.Machine

/-- `00EE`, RET: the entry below `sp`, plus 2, once (rule R120). -/
def execRet (s : State) : Out State :=
  match s.pop with
  | some (w, t) => .next (t.setPc (w + Config.instrBytes))
  | none => raise .stackUnderflow

/-- `1nnn`, JP addr (rule R121). -/
def execJp (addr : Addr12) (s : State) : Out State := .next (s.setPc (addrOperand Config.pcWidth addr))

/-- `2nnn`, CALL addr: the address of this instruction is pushed, not that plus 2 (rule R122). -/
def execCall (addr : Addr12) (s : State) : Out State :=
  match s.push s.pc with
  | some t => .next (t.setPc (addrOperand Config.pcWidth addr))
  | none => raise .stackOverflow

/-- `3xkk`, SE Vx, byte (rule R123). -/
def execSeByte (x : Reg) (kk : Byte) (s : State) : Out State := .next (s.skipIf (s.getV x == kk))

/-- `4xkk`, SNE Vx, byte (rule R124). -/
def execSneByte (x : Reg) (kk : Byte) (s : State) : Out State := .next (s.skipIf (s.getV x != kk))

/-- `5xy0`, SE Vx, Vy (rule R125). -/
def execSeReg (x y : Reg) (s : State) : Out State := .next (s.skipIf (s.getV x == s.getV y))

/-- `9xy0`, SNE Vx, Vy (rule R126). -/
def execSneReg (x y : Reg) (s : State) : Out State := .next (s.skipIf (s.getV x != s.getV y))

/-- `Bnnn`, JP V0, addr: the offset is always `V[0]` (rule R127). -/
def execJpV0 (addr : Addr12) (s : State) : Out State :=
  .next (s.setPc (addrOperand Config.pcWidth addr + s.wideV Config.pcWidth 0))

end Sys2Proof.Machine
end

