-- ==== Sys2Proof/Machine/Flags.lean ====
section
/-! DEFINITION. The flag: what `VF` becomes (rule R22) and the order of the two writes of a flag-writing
instruction (rule R140). -/

namespace Sys2Proof.Machine

/-- A flag as a byte: 0x01 or 0x00 (rule R22). -/
def flagByte (f : Bool) : Byte := if f then 0x01#8 else 0x00#8

/-- The carry of `8xy4`: the sum of the two naturals exceeds 0xFF (rule R147). -/
def carry (a b : Byte) : Bool := 0xFF < a.toNat + b.toNat

/-- No borrow in `a - b`: `a >= b`, unsigned (rules R148, R150). -/
def noBorrow (a b : Byte) : Bool := b.toNat ≤ a.toNat

/-- The bit `8xy6` shifts out: bit 0 (rule R149). -/
def shiftedOutRight (a : Byte) : Bool := a.getLsbD 0

/-- The bit `8xyE` shifts out: bit 7 (rule R151). -/
def shiftedOutLeft (a : Byte) : Bool := a.getLsbD 7

/-- `VF <- f`. -/
def State.setFlag (s : State) (f : Bool) : State := s.setV Config.flagReg (flagByte f)

/-- The two writes of a flag-writing instruction, under a value of `VF_LAST` (rule R140). They meet only where
`x = 0xF`. -/
def State.writeResultAndFlag (vfLast : Bool) (s : State) (x : Reg) (r : Byte) (f : Bool) : State :=
  if vfLast then (s.setV x r).setFlag f else (s.setFlag f).setV x r

end Sys2Proof.Machine
end

