-- ==== Sys2Proof/Machine/Display.lean ====
section
/-! DEFINITION. Display: `00E0` and `Dxyn` (rules R180 to R184). `pc` takes the default advance. -/

namespace Sys2Proof.Machine

/-- `00E0`, CLS (rule R181). -/
def execCls (s : State) : Out State := .next (s.setFb clearBuffer).advance

/-- A draw in progress: the buffer so far, and whether a lit cell has been turned off (`hit`, rule R182). -/
structure Canvas where
  fb  : FrameBuffer
  hit : Bool
deriving DecidableEq, Repr

/-- One bit of a sprite at coordinates `(x, y)`: a set bit flips the cell, and collides where the cell was lit;
a clear bit does nothing (rules R182, R183). -/
def Canvas.drawBit (c : Canvas) (x y : Nat) (bit : Bool) : Canvas :=
  if bit then
    { fb  := setCell c.fb x y (getCell c.fb x y ^^^ Config.cellOn),
      hit := c.hit || getCell c.fb x y == Config.cellOn }
  else c

/-- One row of a sprite from `(x, y)` rightward, most significant bit first (rule R182). -/
def Canvas.drawRow (c : Canvas) (x y : Nat) (row : Byte) : Canvas :=
  (List.range 8).foldl (fun c k => c.drawBit (x + k) y (row.getLsbD (7 - k))) c

/-- The rows of a sprite from `(x, y)` downward (rule R182). -/
def Canvas.drawRows (c : Canvas) (x y : Nat) : List Byte → Canvas
  | [] => c
  | row :: rows => Canvas.drawRows (c.drawRow x y row) x (y + 1) rows

/-- The rows of a sprite: `n` bytes from `base` (rule R182). -/
def spriteRows (m : Memory) (base n : Nat) : List Byte := (List.range n).map fun r => m.read (base + r)

/-- `Dxyn`, DRW Vx, Vy, nibble: column `V[x]`, row `V[y]`, both read before any write (rules R180, R182). -/
def execDrw (x y : Reg) (n : Nibble) (s : State) : Out State :=
  let drawn := Canvas.drawRows ⟨s.fb, false⟩ (s.getV x).toNat (s.getV y).toNat (spriteRows s.mem s.base n.toNat)
  guardRange s.base n.toNat (.next ((s.setFb drawn.fb).setFlag drawn.hit).advance)

end Sys2Proof.Machine
end

