-- ==== Sys2Proof/Machine/IndexMemory.lean ====
section
/-! DEFINITION. Index register and memory: `Annn`, `Fx1E`, `Fx29`, `Fx33`, `Fx55`, `Fx65` (rules R160 to R165).
`pc` takes the default advance; the last three leave `I` as it was (decision D6, log entry 14). -/

namespace Sys2Proof.Machine

/-- `Annn`, LD I, addr (rule R160). -/
def execLdI (addr : Addr12) (s : State) : Out State := .next (s.setI (addrOperand Config.iWidth addr)).advance

/-- `Fx1E`, ADD I, Vx: wraps at 16 bits, no flag (rule R161). -/
def execAddI (x : Reg) (s : State) : Out State := .next (s.setI (s.i + s.wideV Config.iWidth x)).advance

/-- `Fx29`, LD F, Vx: the whole byte times 5, not masked (rule R162). -/
def execLdF (x : Reg) (s : State) : Out State :=
  .next (s.setI (BitVec.ofNat Config.iWidth Config.fontGlyphBytes * s.wideV Config.iWidth x)).advance

/-- `Fx33`, LD B, Vx (rule R163). -/
def execLdB (x : Reg) (s : State) : Out State :=
  guardRange s.base 3 (.next (s.setMem (s.mem.writeBytes s.base (bcdBytes (s.getV x)))).advance)

/-- `Fx55`, LD [I], Vx: `V[0]` to `V[x]`, inclusive (rule R164). -/
def execLdIVx (x : Reg) (s : State) : Out State :=
  guardRange s.base (storeCount x)
    (.next (s.setMem (s.mem.writeBytes s.base (s.regBlock (storeCount x)))).advance)

/-- `Fx65` under a value of `FX65_INCLUSIVE` (rule R165). -/
def loadRegs (inclusive : Bool) (x : Reg) (s : State) : Out State :=
  guardRange s.base (loadCount inclusive x) (.next (s.loadBlock s.base (loadCount inclusive x)).advance)

/-- `Fx65`, LD Vx, [I] (rule R165). -/
def execLdVxI (x : Reg) (s : State) : Out State := loadRegs Config.fx65Inclusive x s

end Sys2Proof.Machine
end

