-- ==== Sys2Proof/Machine/KeypadTimerRandom.lean ====
section
/-! DEFINITION. Keypad, timers, random: `Ex9E`, `ExA1`, `Fx0A`, `Fx07`, `Fx15`, `Fx18`, `Cxkk` (rules R190 to
R196). The keypad sample is the one handed to this step. -/

namespace Sys2Proof.Machine

/-- `Ex9E`, SKP Vx (rule R190). -/
def execSkp (x : Reg) (s : State) : Out State :=
  s.guardKey x fun k => .next (s.skipIf (s.keyDown k))

/-- `ExA1`, SKNP Vx (rule R191). -/
def execSknp (x : Reg) (s : State) : Out State :=
  s.guardKey x fun k => .next (s.skipIf (!s.keyDown k))

/-- What `Fx0A` leaves: the state as it was where no key is reported, else the key in `V[x]` and the default
advance (rule R192). -/
def State.takeKey (s : State) (x : Reg) : State :=
  match s.keyLast with
  | none => s
  | some k => (s.setV x (k.setWidth 8)).advance

/-- `Fx0A`, LD Vx, K. It never blocks: with no key reported the step ends with nothing changed, the outcome
`AwaitingKey` of rule R100, which `Hardware.stepWith` tells apart (rule R192, log entry 1). -/
def execLdVxK (x : Reg) (s : State) : Out State := .next (s.takeKey x)

/-- `Fx07`, LD Vx, DT (rule R193). -/
def execLdVxDt (x : Reg) (s : State) : Out State := .next (s.setV x s.dt).advance

/-- `Fx15`, LD DT, Vx (rule R194). -/
def execLdDtVx (x : Reg) (s : State) : Out State := .next (s.setDt (s.getV x)).advance

/-- `Fx18`, LD ST, Vx (rule R195). -/
def execLdStVx (x : Reg) (s : State) : Out State := .next (s.setSt (s.getV x)).advance

/-- `Cxkk` under a value of `RNG_STEP`: the generator advances once, also where `kk` is 0 (rule R196). -/
def randomMasked (rngStep : Byte → Byte) (x : Reg) (kk : Byte) (s : State) : Out State :=
  .next (((s.randomByte rngStep).2.setV x ((s.randomByte rngStep).1 &&& kk)).advance)

/-- `Cxkk`, RND Vx, byte (rule R196). -/
def execRnd (x : Reg) (kk : Byte) (s : State) : Out State := randomMasked Config.rngStep x kk s

end Sys2Proof.Machine
end

