-- ==== Sys2Proof/Machine/LoadAlu.lean ====
section
/-! DEFINITION. Register load and ALU: `6xkk`, `7xkk`, `8xy0` to `8xy7`, `8xyE` (rules R140 to R152). Operands
are read from the state before the step (rule R140); `pc` takes the default advance. -/

namespace Sys2Proof.Machine

/-- The shape of the instructions that write `V[x]` and no flag. -/
def writeReg (x : Reg) (r : Byte) (s : State) : Out State := .next (s.setV x r).advance

/-- The shape of the five flag-writing instructions, under a value of `VF_LAST` (rule R140). -/
def writeFlagged (vfLast : Bool) (x : Reg) (r : Byte) (f : Bool) (s : State) : Out State :=
  .next (s.writeResultAndFlag vfLast x r f).advance

/-- `6xkk`, LD Vx, byte (rule R141). -/
def execLdByte (x : Reg) (kk : Byte) (s : State) : Out State := writeReg x kk s

/-- `7xkk`, ADD Vx, byte: no flag (rule R142). -/
def execAddByte (x : Reg) (kk : Byte) (s : State) : Out State := writeReg x (s.getV x + kk) s

/-- `8xy0`, LD Vx, Vy (rule R143). -/
def execLdReg (x y : Reg) (s : State) : Out State := writeReg x (s.getV y) s

/-- `8xy1`, OR Vx, Vy (rule R144). -/
def execOrReg (x y : Reg) (s : State) : Out State := writeReg x (s.getV x ||| s.getV y) s

/-- `8xy2`, AND Vx, Vy (rule R145). -/
def execAndReg (x y : Reg) (s : State) : Out State := writeReg x (s.getV x &&& s.getV y) s

/-- `8xy3`, XOR Vx, Vy (rule R146). -/
def execXorReg (x y : Reg) (s : State) : Out State := writeReg x (s.getV x ^^^ s.getV y) s

/-- `8xy4`, ADD Vx, Vy, with the carry, under a value of `VF_LAST` (rule R147). -/
def addRegs (vfLast : Bool) (x y : Reg) (s : State) : Out State :=
  writeFlagged vfLast x (s.getV x + s.getV y) (carry (s.getV x) (s.getV y)) s

/-- `8xy4`, ADD Vx, Vy (rule R147). -/
def execAddReg (x y : Reg) (s : State) : Out State := addRegs Config.vfLast x y s

/-- `8xy5`, SUB Vx, Vy, with no-borrow, under a value of `VF_LAST` (rule R148). -/
def subRegs (vfLast : Bool) (x y : Reg) (s : State) : Out State :=
  writeFlagged vfLast x (s.getV x - s.getV y) (noBorrow (s.getV x) (s.getV y)) s

/-- `8xy5`, SUB Vx, Vy (rule R148). -/
def execSubReg (x y : Reg) (s : State) : Out State := subRegs Config.vfLast x y s

/-- `8xy6`, SHR Vx: `V[x]` in place, `V[y]` is not read, under a value of `VF_LAST` (rule R149). -/
def shiftRight (vfLast : Bool) (x : Reg) (s : State) : Out State :=
  writeFlagged vfLast x (s.getV x >>> 1) (shiftedOutRight (s.getV x)) s

/-- `8xy6`, SHR Vx (rule R149). -/
def execShr (x _y : Reg) (s : State) : Out State := shiftRight Config.vfLast x s

/-- `8xy7`, SUBN Vx, Vy, with no-borrow, under a value of `VF_LAST` (rule R150). -/
def subnRegs (vfLast : Bool) (x y : Reg) (s : State) : Out State :=
  writeFlagged vfLast x (s.getV y - s.getV x) (noBorrow (s.getV y) (s.getV x)) s

/-- `8xy7`, SUBN Vx, Vy (rule R150). -/
def execSubnReg (x y : Reg) (s : State) : Out State := subnRegs Config.vfLast x y s

/-- `8xyE`, SHL Vx: `V[x]` in place, `V[y]` is not read, under a value of `VF_LAST` (rule R151). -/
def shiftLeft (vfLast : Bool) (x : Reg) (s : State) : Out State :=
  writeFlagged vfLast x (s.getV x <<< 1) (shiftedOutLeft (s.getV x)) s

/-- `8xyE`, SHL Vx (rule R151). -/
def execShl (x _y : Reg) (s : State) : Out State := shiftLeft Config.vfLast x s

end Sys2Proof.Machine
end

