-- ==== Sys2Proof/Machine/Cycle.lean ====
section
/-! DEFINITION. The step operation of rule R100 on a state that already holds its keypad sample: fetch, decode,
execute, in that order (rule R104). -/

namespace Sys2Proof.Machine

/-- The word at an address and the next, big-endian (rule R50). -/
def Memory.fetch16 (m : Memory) (a : Nat) : Word := wordOfBytes (m.read a) (m.read (a + 1))

/-- The word at `pc`. -/
def State.fetchWord (s : State) : Word := s.mem.fetch16 s.pc.toNat

/-- Whether both bytes at `pc` lie in memory: `pc <= 0xFFE` (rule R101). -/
def State.canFetch (s : State) : Bool := s.pc.toNat + 1 < Config.memSize

/-- Fetch and decode: a fetch outside memory faults with `pc` (rule R101), a word of no instruction faults with
that word (rule R102). -/
def State.fetchInstr (s : State) : Except Fault Instr :=
  if s.canFetch then
    match decode s.fetchWord with
    | .ok i => .ok i
    | .error _ => .error (.unknownInstruction s.fetchWord)
  else .error (.memoryFault s.pc.toNat)

/-- One instruction, whole (rules R54, R103). -/
def cycle (s : State) : Out State :=
  match s.fetchInstr with
  | .ok i => exec i s
  | .error f => raise f

/-- Whether the next instruction is `Fx0A` and the sample reports no key: the step makes no progress
(rules R100, R192). -/
def State.awaitsKey (s : State) : Bool :=
  match s.fetchInstr with
  | .ok (.ldVxK _) => s.keyLast == none
  | _ => false

/-- Where the next fetch takes its word, for placing an instruction there: `pc`, or 0x200 where nothing can be
fetched at `pc` (log entry 21). -/
def State.fetchable (s : State) : State := if s.canFetch then s else s.setPc Config.pcReset

/-- The state with the bytes of an instruction stored where it fetches. -/
def State.placeBytes (s : State) (bytes : List Byte) : State :=
  s.fetchable.setMem (s.fetchable.mem.writeBytes s.fetchable.pc.toNat bytes)

end Sys2Proof.Machine
end

