-- ==== Sys2Proof/Machine/Step.lean ====
section
/-! DEFINITION. One step of the machine: the host's turn at the instruction boundary, then one instruction. -/

namespace Sys2Proof.Machine

/-- The host takes its turn (its ticks, then its keypad sample, log entries 2 and 3), then one instruction is
fetched, decoded and executed (rule R100). -/
def step (s : State) : Host.Outcome State Fault Refusal := cycle s.beginTurn

/-- `s` with an instruction, numbered as the opcode table numbers it, where the next step fetches. It stands
for the host's `load` (log entry 21). -/
def State.withFetchWord (s : State) (nbits w : Nat) : State := s.placeBytes (tableBytes nbits w)

end Sys2Proof.Machine
end

