-- ==== Sys2Proof/Machine/Parameters.lean ====
section
/-! DEFINITION. The machine under any values of the parameters that the source leaves open (rule R6): `SEED`,
`RNG_STEP`, `FONT`, `FX65_INCLUSIVE`, `VF_LAST`. The fixed names `exec`, `cycle`, `step` and the reset state are this
machine under `Config.parameters`. -/

namespace Sys2Proof.Machine

/-- The meaning of each instruction under given parameters: the seven that a parameter reaches take it, every
other is its one meaning. -/
def execUnder (p : Parameters) (i : Instr) (s : State) : Out State :=
  match i with
  | .cls => execCls s
  | .ret => execRet s
  | .jp addr => execJp addr s
  | .call addr => execCall addr s
  | .seByte x kk => execSeByte x kk s
  | .sneByte x kk => execSneByte x kk s
  | .seReg x y => execSeReg x y s
  | .ldByte x kk => execLdByte x kk s
  | .addByte x kk => execAddByte x kk s
  | .ldReg x y => execLdReg x y s
  | .orReg x y => execOrReg x y s
  | .andReg x y => execAndReg x y s
  | .xorReg x y => execXorReg x y s
  | .addReg x y => addRegs p.vfLast x y s
  | .subReg x y => subRegs p.vfLast x y s
  | .shr x _ => shiftRight p.vfLast x s
  | .subnReg x y => subnRegs p.vfLast x y s
  | .shl x _ => shiftLeft p.vfLast x s
  | .sneReg x y => execSneReg x y s
  | .ldI addr => execLdI addr s
  | .jpV0 addr => execJpV0 addr s
  | .rnd x kk => randomMasked p.rngStep x kk s
  | .drw x y n => execDrw x y n s
  | .skp x => execSkp x s
  | .sknp x => execSknp x s
  | .ldVxDt x => execLdVxDt x s
  | .ldVxK x => execLdVxK x s
  | .ldDtVx x => execLdDtVx x s
  | .ldStVx x => execLdStVx x s
  | .addI x => execAddI x s
  | .ldF x => execLdF x s
  | .ldB x => execLdB x s
  | .ldIVx x => execLdIVx x s
  | .ldVxI x => loadRegs p.fx65Inclusive x s

/-- One instruction, whole, under given parameters (rules R54, R103). Fetching and decoding take none. -/
def cycleUnder (p : Parameters) (s : State) : Out State :=
  match s.fetchInstr with
  | .ok i => execUnder p i s
  | .error f => raise f

/-- The host's turn, then one instruction, under given parameters (rule R100). -/
def stepUnder (p : Parameters) (s : State) : Out State := cycleUnder p s.beginTurn

/-- The ten components after a construction with given parameters (rules R40, R241): `FONT` at 0x000 to 0x04F, `SEED`
in `rng`, the rest as every reset leaves it. -/
def Hardware.resetUnder (p : Parameters) : Hardware :=
  { Hardware.reset with
    mem := Hardware.reset.mem.writeBytes Config.fontBase p.font.toList
    rng := p.seed }

/-- That, and no input yet. -/
def State.resetUnder (p : Parameters) : State := { State.reset with toHardware := Hardware.resetUnder p }

end Sys2Proof.Machine
end

