-- ==== Sys2Proof/Machine/Session.lean ====
section
/-! DEFINITION. The host's side of the machine (rule R228): every operation the hardware exposes, the order the
host owes (rules R243, R244), the three outcomes of a step on the ten components (rule R100), the end of a run
(rule R109), the display read-out (rule R226) and the debug dump (rule R229). -/

namespace Sys2Proof.Machine

/-! ## The outcome of a step (rule R100) -/

/-- The three outcomes of rule R100. -/
inductive StepOutcome where
  | next
  | awaitingKey
  | fault (kind : Fault)
deriving DecidableEq, Repr

/-- Which outcome of rule R100 a step has that runs `run` on the ten components with a given keypad sample, and the
ten components after it: those its rule gives, or those before it. -/
def Hardware.outcomeOf (run : State → Out State) (h : Hardware) (k : KeypadSample) :
    Host.Outcome (Hardware × StepOutcome) Fault Refusal :=
  match run (h.given k) with
  | .next t => if (h.given k).awaitsKey then .next (h, .awaitingKey) else .next (t.toHardware, .next)
  | .fault f => .next (h, .fault f)
  | .refused r => .refused r

/-- `step(sample)`: a function of the ten components and the sample, which is an input and no state (rules R39,
R100, R108). -/
def Hardware.stepWith (h : Hardware) (k : KeypadSample) : Host.Outcome (Hardware × StepOutcome) Fault Refusal :=
  h.outcomeOf cycle k

/-- `step(sample)` under given parameters. -/
def Hardware.stepUnder (p : Parameters) (h : Hardware) (k : KeypadSample) :
    Host.Outcome (Hardware × StepOutcome) Fault Refusal :=
  h.outcomeOf (cycleUnder p) k

/-! ## The end of a run (rule R109)

"A model must choose its own definition of the end of a run": this one takes both of the rule's examples, the first
state whose next instruction is a jump to its own address, or the first fault. DESIGN CHOICE, log entry 27. -/

/-- How a run ends. -/
inductive RunEnd where
  /-- The next instruction is a `1nnn` to its own address: the customary way to be finished. -/
  | selfJump
  /-- The next step faults. -/
  | faulted (kind : Fault)
deriving DecidableEq, Repr

/-- "A `Fault` outcome is never a successful end" (rule R109). -/
def RunEnd.successful : RunEnd → Bool
  | .selfJump => true
  | .faulted _ => false

/-- The end this state is, or nothing where the run goes on. No fault and no jump depends on the keypad sample
(rule R216), so none is asked for. -/
def Hardware.ending (p : Parameters) (h : Hardware) : Option RunEnd :=
  let s := h.given { down := 0#16, last := none }
  match cycleUnder p s with
  | .fault f => some (.faulted f)
  | _ =>
    match s.fetchInstr with
    | .ok (.jp addr) => if addrOperand Config.pcWidth addr = h.pc then some .selfJump else none
    | _ => none

/-- A run over the host's turns, up to its end or to the last turn: where it stopped, and the end it came to, if
any. -/
def Hardware.run (p : Parameters) (h : Hardware) : List HostTurn → Hardware × Option RunEnd
  | [] => (h, h.ending p)
  | turn :: turns =>
    match h.ending p, (h.ticks turn.ticks).stepUnder p turn.sample with
    | none, .next (t, _) => t.run p turns
    | e, _ => (h, e)

/-! ## Display read-out (rules R226, R34) -/

/-- The cells row after row, `(cx, cy)` at index `cy * 64 + cx` (rule R34, decision D17). -/
def Hardware.flatDisplay (h : Hardware) : List Byte := h.fb.toList.flatMap fun row => row.toList

/-! ## Debug dump (rule R229) -/

/-- One hexadecimal digit. -/
def hexDigit (upper : Bool) (d : Nat) : Char :=
  if d < 10 then Char.ofNat (48 + d) else if upper then Char.ofNat (55 + d) else Char.ofNat (87 + d)

/-- The low `count` hexadecimal digits of a number, most significant first, from a column of a line on. -/
def hexDigits (upper : Nat → Bool) : Nat → Nat → Nat → List Char
  | _, 0, _ => []
  | column, count + 1, n =>
    hexDigit (upper column) (n / 16 ^ count % 16) :: hexDigits upper (column + 1) count n

/-- A line of the dump: a label, then `: 0x` and the digits. `upper` says of each column whether a letter there is a
capital. -/
def dumpLine (upper : Nat → Bool) (label : List Char) (count n : Nat) : List Char :=
  label ++ [':', ' ', '0', 'x'] ++ hexDigits upper (label.length + 4) count n

/-- The lines of the dump: the sixteen registers, `PC`, `I ` (with its space), `SP` (rule R229). Rule R229 leaves open
the case of each digit, here `upper line column`; the order of the register lines, here rising, a DESIGN CHOICE; and
the separators, which are not modelled: log entry 23. -/
def dumpLines (upper : Nat → Nat → Bool) (h : Hardware) : List (List Char) :=
  (List.finRange 16).map (fun k =>
      dumpLine (upper k.val) ['V', hexDigit (upper k.val 1) k.val] 2 h.v[k].toNat) ++
    [dumpLine (upper 16) ['P', 'C'] 4 h.pc.toNat,
     dumpLine (upper 17) ['I', ' '] 4 h.i.toNat,
     dumpLine (upper 18) ['S', 'P'] 2 h.sp.val]

/-- The debug dump. It reads the state and changes nothing (rule R229). -/
def Hardware.dump (h : Hardware) : List (List Char) := dumpLines Config.dumpUpperCase h

/-! ## Host operations (rule R228) -/

/-- Where a machine is in its life (rule R244): constructed, or loaded with its one program. -/
inductive Phase where
  | constructed
  | loaded
deriving DecidableEq, Repr

/-- A machine in the hands of its host: the parameters it was constructed with (rule R6), how far its life has gone,
and its ten components. The phase is the host's duty to keep, not a bit of the hardware (rule R38). -/
structure Session where
  config  : Parameters
  phase   : Phase
  machine : Hardware

/-- Construction with `SEED` and the configuration, "exactly once" (rules R40, R228, R240). -/
def Session.construct (p : Parameters) : Session :=
  { config := p, phase := .constructed, machine := Hardware.resetUnder p }

/-- The end of the run the machine has come to, if any (rule R109). -/
def Session.ending (h : Session) : Option RunEnd := h.machine.ending h.config

/-- The calls of rule R228 after construction; to shut down is to make no further call. -/
inductive Call where
  | load (bytes : List Byte)
  | step (sample : KeypadSample)
  | tick
  | get (x y : Nat)
  | dump
deriving DecidableEq, Repr

/-- What a call gives back. -/
inductive Reply where
  | done
  | stepped (outcome : StepOutcome)
  | cell (value : Byte)
  | text (lines : List (List Char))
deriving DecidableEq, Repr

/-- Goes on only where the program has been loaded (rule R244, decision D19). -/
def Session.afterLoad {σ : Type} (h : Session) (go : Out σ) : Out σ :=
  match h.phase with
  | .loaded => go
  | .constructed => .refused .notLoaded

/-- `load`: once, before stepping, at most 3584 bytes (rules R243, R244, decision D19). -/
def Session.load (h : Session) (bytes : List Byte) : Out (Session × Reply) :=
  match h.phase with
  | .loaded => .refused .alreadyLoaded
  | .constructed =>
    if loadable bytes then .next ({ h with phase := .loaded, machine := h.machine.load bytes }, .done)
    else .refused .programTooLong

/-- `step(sample)` (rule R100). A fault is reported and leaves the machine as it was (rules R215, R225): the run is
over (`Session.ending`), and a host that steps again all the same gets the same fault again (rule R216). -/
def Session.step (h : Session) (k : KeypadSample) : Out (Session × Reply) :=
  match h.machine.stepUnder h.config k with
  | .next (t, o) => .next ({ h with machine := t }, .stepped o)
  | .fault f => .fault f
  | .refused r => .refused r

/-- One call of the host. `tick` is legal at any instruction boundary, before the load too, where it changes
nothing (rule R244). -/
def Session.call (h : Session) (c : Call) : Out (Session × Reply) :=
  match c with
  | .load bytes => h.load bytes
  | .step k => h.afterLoad (h.step k)
  | .tick => .next ({ h with machine := h.machine.tick }, .done)
  | .get x y => h.afterLoad (.next (h, .cell (getCell h.machine.fb x y)))
  | .dump => h.afterLoad (.next (h, .text h.machine.dump))

end Sys2Proof.Machine
end

