-- ==== Sys2Proof/Safety.lean ====
section
/-! DEFINITION. The terms claims are stated in: a safe outcome, the invariants, the write map of rule R41 and
the frame it gives an instruction, the fault conditions of rule R211. -/

namespace Sys2Proof.Machine

/-! ## Safe outcomes -/

/-- An instruction or a step is safe when it neither faults nor is refused: "a `Fault` outcome is never a
successful end" (rule R109). -/
def Safe (o : Out State) : Prop := ∃ t, o = .next t

/-- An outcome with its next state, if any, changed. -/
def mapNext (f : State → State) : Out State → Out State
  | .next t => .next (f t)
  | .fault r => .fault r
  | .refused r => .refused r

/-! ## Invariants -/

/-- Memory is in its canonical form (log entry 19). -/
abbrev State.MemoryCanonical (s : State) : Prop := s.mem.wf

/-- Every display cell is 0x00 or 0xFF (rule R35). -/
abbrev State.CellsOnOrOff (s : State) : Prop := cellsLegal s.fb

/-- `pc` is at most 0x10FE, and every entry of the call stack is an address that can be fetched at (rule
R24). -/
abbrev State.PcInRange (s : State) : Prop :=
  s.pc.toNat ≤ 0x10FE ∧ ∀ k : Fin 16, s.stack[k].toNat ≤ 0xFFE

/-! ## The write map (rule R41) -/

/-- What an instruction may write besides `pc`. A field left out is not written. -/
structure WriteSet where
  /-- General registers. -/
  regs   : List Reg := []
  /-- `I`. -/
  index  : Bool := false
  /-- `sp`. -/
  sp     : Bool := false
  /-- The stack entry at the pre-step `sp`. -/
  entry  : Bool := false
  /-- `DT`. -/
  delay  : Bool := false
  /-- `ST`. -/
  sound  : Bool := false
  /-- `rng`. -/
  random : Bool := false
  /-- How many bytes of memory from the address in `I`. -/
  stored : Nat := 0
  /-- Display cells. -/
  cells  : Nat → Nat → Prop := fun _ _ => False

/-- Whether the cell at `(cx, cy)` is under a sprite of `n` rows at `(V[x], V[y])` (rule R180). -/
def underSprite (s : State) (x y : Reg) (n : Nat) (cx cy : Nat) : Prop :=
  ∃ r c, r < n ∧ c < 8 ∧
    cx % 64 = ((s.getV x).toNat + c) % 64 ∧ cy % 32 = ((s.getV y).toNat + r) % 32

/-- The registers with numbers below `count`. -/
def firstRegs (count : Nat) : List Reg := (List.range count).map (BitVec.ofNat 4)

/-- The rows of rule R41, instruction by instruction. -/
def writeSet (s : State) : Instr → WriteSet
  | .cls => { cells := fun _ _ => True }
  | .ret => { sp := true }
  | .jp _ => {}
  | .call _ => { sp := true, entry := true }
  | .seByte _ _ => {}
  | .sneByte _ _ => {}
  | .seReg _ _ => {}
  | .ldByte x _ => { regs := [x] }
  | .addByte x _ => { regs := [x] }
  | .ldReg x _ => { regs := [x] }
  | .orReg x _ => { regs := [x] }
  | .andReg x _ => { regs := [x] }
  | .xorReg x _ => { regs := [x] }
  | .addReg x _ => { regs := [x, 0xF#4] }
  | .subReg x _ => { regs := [x, 0xF#4] }
  | .shr x _ => { regs := [x, 0xF#4] }
  | .subnReg x _ => { regs := [x, 0xF#4] }
  | .shl x _ => { regs := [x, 0xF#4] }
  | .sneReg _ _ => {}
  | .ldI _ => { index := true }
  | .jpV0 _ => {}
  | .rnd x _ => { regs := [x], random := true }
  | .drw x y n => { regs := [0xF#4], cells := underSprite s x y n.toNat }
  | .skp _ => {}
  | .sknp _ => {}
  | .ldVxDt x => { regs := [x] }
  | .ldVxK x => { regs := [x] }
  | .ldDtVx _ => { delay := true }
  | .ldStVx _ => { sound := true }
  | .addI _ => { index := true }
  | .ldF _ => { index := true }
  | .ldB _ => { stored := 3 }
  | .ldIVx x => { stored := x.toNat + 1 }
  | .ldVxI x => { regs := firstRegs x.toNat }

/-- From `s` to `t` nothing changed but `pc` and what the set names: every general register, special register,
stack entry, byte of memory and display cell outside it is as before, and so are the inputs the model holds. -/
structure Frame (w : WriteSet) (s t : State) : Prop where
  regs    : ∀ r, r ∉ w.regs → t.getV r = s.getV r
  index   : w.index = false → t.i = s.i
  sp      : w.sp = false → t.sp = s.sp
  stack   : ∀ k : Fin 16, (w.entry = true → k.val ≠ s.sp.val) → t.stack[k] = s.stack[k]
  delay   : w.delay = false → t.dt = s.dt
  sound   : w.sound = false → t.st = s.st
  random  : w.random = false → t.rng = s.rng
  memory  : ∀ a, ¬(s.i.toNat ≤ a ∧ a < s.i.toNat + w.stored) → t.mem.read a = s.mem.read a
  display : ∀ cx cy, ¬w.cells cx cy → getCell t.fb cx cy = getCell s.fb cx cy
  inputs  : t.keys = s.keys ∧ t.pending = s.pending ∧ t.turn = s.turn

/-- The instructions that write `VF` as a flag: the six of rule R22. -/
def writesFlag : Instr → Bool
  | .addReg _ _ => true
  | .subReg _ _ => true
  | .shr _ _ => true
  | .subnReg _ _ => true
  | .shl _ _ => true
  | .drw _ _ _ => true
  | _ => false

/-- The instructions that consult the keypad sample: the three of rule R223. -/
def readsKeypad : Instr → Bool
  | .skp _ => true
  | .sknp _ => true
  | .ldVxK _ => true
  | _ => false

/-! ## Bytes after a store -/

/-- What an address reads as once some bytes have been stored at rising addresses from `base`: the byte stored there,
or what memory held. -/
def overlaid (m : Memory) (base : Nat) (bytes : List Byte) (a : Nat) : Byte :=
  if base ≤ a ∧ a < base + bytes.length then (bytes[a - base]?).getD 0#8 else m.read a

/-- `V[0]` to `V[count - 1]`. -/
def firstValues (s : State) (count : Nat) : List Byte :=
  (List.range count).map fun k => s.getV (BitVec.ofNat 4 k)

/-! ## Parameters (rule R6) -/

/-- The instructions whose meaning a parameter reaches: `VF_LAST` the five of rule R140, `RNG_STEP` `Cxkk`,
`FX65_INCLUSIVE` `Fx65`. -/
def usesParameter : Instr → Bool
  | .addReg _ _ => true
  | .subReg _ _ => true
  | .shr _ _ => true
  | .subnReg _ _ => true
  | .shl _ _ => true
  | .rnd _ _ => true
  | .ldVxI _ => true
  | _ => false

/-! ## Fault conditions (rules R56, R211) -/

/-- The `MemoryFault` of an access of `count` bytes from `I`: raised when there is a byte and the last one is
above 0xFFF; it carries the lowest effective address above 0xFFF. -/
def dataFault (s : State) (count : Nat) : Option Fault :=
  if 1 ≤ count ∧ s.i.toNat + count - 1 > 0xFFF then
    some (.memoryFault (if s.i.toNat > 0xFFF then s.i.toNat else 0x1000))
  else none

/-- The handler's own fault: at most one for each instruction (rule R217). -/
def handlerFault (s : State) : Instr → Option Fault
  | .ret => if s.sp.val = 0 then some .stackUnderflow else none
  | .call _ => if s.sp.val = 16 then some .stackOverflow else none
  | .skp x => if (s.getV x).toNat > 15 then some (.keyIndexFault (s.getV x)) else none
  | .sknp x => if (s.getV x).toNat > 15 then some (.keyIndexFault (s.getV x)) else none
  | .drw _ _ n => dataFault s n.toNat
  | .ldB _ => dataFault s 3
  | .ldIVx x => dataFault s (x.toNat + 1)
  | .ldVxI x => dataFault s x.toNat
  | _ => none

/-- Which fault a step raises, in the order of rule R217: the fetch's, then the decoder's, then the
handler's. -/
def faultCondition (s : State) : Option Fault :=
  if s.pc.toNat > 0xFFE then some (.memoryFault s.pc.toNat)
  else match decode (s.mem.fetch16 s.pc.toNat) with
    | .error _ => some (.unknownInstruction (s.mem.fetch16 s.pc.toNat))
    | .ok i => handlerFault s i

end Sys2Proof.Machine
end

