-- ==== Sys2Proof/Certificates/Slice0/Obligations.lean ====
section
/-! DEFINITION. The statements for the provers. Each docstring names the rule it formalises, or says that it
rests on a choice of the spec or of the model. -/

open Sys2Proof Sys2Proof.Machine

/-! ## Encoding -/

/-- Words written out from the encodings of rule R86, at least one for each family, decode to what they stand
for. -/
def Obligations.DecodeReadsWordsWrittenOut : Prop :=
  decode 0x00E0#16 = .ok .cls ∧ decode 0x00EE#16 = .ok .ret ∧ decode 0x1234#16 = .ok (.jp 0x234) ∧
  decode 0x332A#16 = .ok (.seByte 0x3 0x2A) ∧ decode 0x9120#16 = .ok (.sneReg 0x1 0x2) ∧
  decode 0x6A3C#16 = .ok (.ldByte 0xA 0x3C) ∧ decode 0x8406#16 = .ok (.shr 0x4 0x0) ∧
  decode 0x801E#16 = .ok (.shl 0x0 0x1) ∧ decode 0xA123#16 = .ok (.ldI 0x123) ∧
  decode 0xF265#16 = .ok (.ldVxI 0x2) ∧ decode 0xD125#16 = .ok (.drw 0x1 0x2 0x5) ∧
  decode 0xE29E#16 = .ok (.skp 0x2) ∧ decode 0xF30A#16 = .ok (.ldVxK 0x3) ∧
  decode 0xC10F#16 = .ok (.rnd 0x1 0x0F)

/-- The fields of a word are those of rule R10: `addr = instr & 0xFFF`, `n = instr & 0xF`,
`x = (instr >> 8) & 0xF`, `y = (instr >> 4) & 0xF`, `kk = instr & 0xFF`, `op` the top nibble. -/
def Obligations.FieldsAreTheSlicesOfTheWord : Prop :=
  ∀ w : Word,
    (addrField w).setWidth 16 = w &&& 0xFFF#16 ∧ (nField w).setWidth 16 = w &&& 0xF#16 ∧
    (xField w).setWidth 16 = (w >>> 8) &&& 0xF#16 ∧ (yField w).setWidth 16 = (w >>> 4) &&& 0xF#16 ∧
    (kkField w).setWidth 16 = w &&& 0xFF#16 ∧ (opField w).setWidth 16 = w >>> 12

/-- Every instruction, with every operand, is what its word decodes to: no bit of an encoding is dropped. -/
def Obligations.DecodeOfEncodeIsTheInstruction : Prop :=
  ∀ i : Instr, decode (encode i) = .ok i

/-- Every word that decodes is the word of the instruction it decodes to: one meaning, one word. -/
def Obligations.EncodeOfDecodeIsTheWord : Prop :=
  ∀ (w : Word) (i : Instr), decode w = .ok i → encode i = w

/-- Rule R102 on a word, with the masks the spec's decision D8 fixes: at most one row of the opcode map covers it; where one does, it decodes to an
instruction of that row; where none does, it decodes to no instruction. -/
def Obligations.DecodeFindsTheOneRowThatCovers : Prop :=
  ∀ w : Word,
    (∀ r ∈ opcodeRows, ∀ q ∈ opcodeRows, w &&& r.mask = r.pattern → w &&& q.mask = q.pattern → r = q) ∧
    (∀ r ∈ opcodeRows, w &&& r.mask = r.pattern → ∃ i, decode w = .ok i ∧ i.mnemonic = r.mnemonic) ∧
    ((∀ r ∈ opcodeRows, w &&& r.mask ≠ r.pattern) → decode w = .error (.unknown w))

/-- The illegal words are exactly those the table of rule R87 lists, family by family. The readings of families
0, 5 and 9 are the spec's decision D8. -/
def Obligations.IllegalWordsAreTheListedOnes : Prop :=
  ∀ w : Word, decode w = .error (.unknown w) ↔
    (opField w = 0x0#4 ∧ addrField w ≠ 0x0E0#12 ∧ addrField w ≠ 0x0EE#12) ∨
    (opField w = 0x5#4 ∧ nField w ≠ 0#4) ∨
    (opField w = 0x8#4 ∧ nField w ∈ ([0x8, 0x9, 0xA, 0xB, 0xC, 0xD, 0xF] : List Nibble)) ∨
    (opField w = 0x9#4 ∧ nField w ≠ 0#4) ∨
    (opField w = 0xE#4 ∧ kkField w ∉ ([0x9E, 0xA1] : List Byte)) ∨
    (opField w = 0xF#4 ∧
      kkField w ∉ ([0x07, 0x0A, 0x15, 0x18, 0x1E, 0x29, 0x33, 0x55, 0x65] : List Byte))

/-! ## The step -/

/-- Rule R50: the byte at the lower address supplies bits 15:8 of the word, the next one bits 7:0. -/
def Obligations.FetchIsBigEndian : Prop :=
  ∀ (m : Memory) (a : Nat),
    m.fetch16 a = (m.read a).setWidth 16 <<< 8 ||| (m.read (a + 1)).setWidth 16 ∧
    (m.fetch16 a).toNat = 256 * (m.read a).toNat + (m.read (a + 1)).toNat

/-- Rule R101: a fetch with `pc > 0xFFE` faults with `pc` and does nothing else; any other fetch, at an even or
an odd address, takes the word from the two bytes at `pc` and `pc + 1` and leaves the state as it was. -/
def Obligations.FetchOutsideMemoryFaults : Prop :=
  ∀ s : State,
    (s.pc.toNat > 0xFFE → cycle s = .fault (.memoryFault s.pc.toNat) ∧
      step s = .fault (.memoryFault s.pc.toNat)) ∧
    (s.pc.toNat ≤ 0xFFE → cycle s =
      match decode ((s.mem.read s.pc.toNat).setWidth 16 <<< 8 ||| (s.mem.read (s.pc.toNat + 1)).setWidth 16) with
      | .ok i => exec i s
      | .error _ => .fault (.unknownInstruction
          ((s.mem.read s.pc.toNat).setWidth 16 <<< 8 ||| (s.mem.read (s.pc.toNat + 1)).setWidth 16)))

/-- A step runs the instruction its bytes decode to, on the state in which the host has taken its turn (the
model's own arrangement, log entries 2 and 3). -/
def Obligations.StepRunsTheDecodedInstruction : Prop :=
  ∀ (s : State) (i : Instr), s.pc.toNat ≤ 0xFFE → decode s.fetchWord = .ok i → step s = exec i s.beginTurn

/-- What the step adds before the instruction (the model's own arrangement, log entries 2 and 3): the timers
take the turn's ticks, that many calls of `tick`; the sample is handed over; the turn, the oldest one announced
or a free one, is used up; and nothing else changes. No instruction reads or changes the announced turns or their
count. -/
def Obligations.HostTurnChangesTimersAndSampleOnly : Prop :=
  (∀ s t : State,
    t = { s with keys := s.nextTurn.sample, pending := s.pending.tail, turn := s.turn + 1 } →
    Frame { delay := true, sound := true } t s.beginTurn ∧ s.beginTurn.pc = s.pc ∧
    s.beginTurn.dt = (State.ticks s.nextTurn.ticks s).dt ∧ s.beginTurn.st = (State.ticks s.nextTurn.ticks s).st) ∧
  (∀ s : State, ∀ t rest, s.pending = t :: rest → s.nextTurn = t) ∧
  (∀ s : State, s.pending = [] → s.nextTurn = Config.freeTurn s.turn) ∧
  (∀ s : State, State.ticks 0 s = s) ∧ (∀ (n : Nat) (s : State), State.ticks (n + 1) s = (State.ticks n s).tick) ∧
  ∀ (i : Instr) (s : State) (p : List HostTurn) (m : Nat),
    exec i { s with pending := p, turn := m } = mapNext (fun t => { t with pending := p, turn := m }) (exec i s)

/-- Rule R102 in the step, with the masks the spec's decision D8 fixes, on the state in which the host has taken its
turn (the model's own arrangement, log entries 2 and 3): where a row of the opcode map covers the
fetched word, no other row does, and the step runs the instruction of that row whose fields are the word's; where
none does, it raises `UnknownInstruction(instr)`. -/
def Obligations.StepRunsTheRowThatCoversOrFaults : Prop :=
  ∀ s : State, s.pc.toNat ≤ 0xFFE →
    (∀ r ∈ opcodeRows, s.fetchWord &&& r.mask = r.pattern →
      (∀ q ∈ opcodeRows, s.fetchWord &&& q.mask = q.pattern → q = r) ∧
      ∃ i, i.mnemonic = r.mnemonic ∧ encode i = s.fetchWord ∧ step s = exec i s.beginTurn) ∧
    ((∀ r ∈ opcodeRows, s.fetchWord &&& r.mask ≠ r.pattern) →
      step s = .fault (.unknownInstruction s.fetchWord))

/-- The whole-machine fault rule (the table of rule R211 in the order of rule R217, with the choices of the
spec's decisions D1 to D5, D8, D9, D20; D5, the exclusive bound of `Fx65`, is log entry 7): a step faults with `f`
exactly when `f` is the fault the table gives, and otherwise it answers a next state, as which the model counts a
waiting `Fx0A` too (log entry 1). It never refuses. -/
def Obligations.StepFaultsExactlyWhereTheTableSays : Prop :=
  (∀ (s : State) (f : Fault), step s = .fault f ↔ faultCondition s.beginTurn = some f) ∧
  (∀ s : State, faultCondition s.beginTurn = none ↔ Safe (step s))

/-- The host's turn cannot change whether a step faults, so a fault is raised again on every further step,
whatever ticks and keypad samples come between (rule R216, which the spec derives). -/
def Obligations.FaultIsRaisedAgain : Prop :=
  ∀ (s : State) (f : Fault), step s = .fault f →
    ∀ (n : Nat) (k : KeypadSample) (p : List HostTurn) (m : Nat),
      step { (State.ticks n s).withKeys k with pending := p, turn := m } = .fault f

/-- Rule R100: a step on the ten components with a keypad sample ends in exactly one of three outcomes. `Next`: the
instruction executed, and the components are those its rule gives. `AwaitingKey`: the instruction was `Fx0A` and no
key press was reported, and every component is unchanged. `Fault`: every component is unchanged. -/
def Obligations.StepEndsInOneOfThreeOutcomes : Prop :=
  ∀ (h : Hardware) (k : KeypadSample), ∃ t o, h.stepWith k = .next (t, o) ∧
    (o = .next → ∃ i u, (h.given k).fetchInstr = .ok i ∧ exec i (h.given k) = .next u ∧ t = u.toHardware) ∧
    (o = .awaitingKey ↔ k.last = none ∧ ∃ x, (h.given k).fetchInstr = .ok (.ldVxK x)) ∧
    (o = .awaitingKey → t = h) ∧
    (∀ f, o = .fault f ↔ cycle (h.given k) = .fault f) ∧
    (∀ f, o = .fault f → t = h)

/-! ## Invariants -/

/-- Every step keeps memory in its canonical form: addresses rising, all inside memory, no cell equal to its
reset value (the model's own form, log entry 19). -/
def Obligations.StepKeepsMemoryCanonical : Prop :=
  ∀ s t : State, s.MemoryCanonical → step s = .next t → t.MemoryCanonical

/-- Every step keeps every display cell 0x00 or 0xFF (rule R35, which the spec derives). -/
def Obligations.StepKeepsCellsOnOrOff : Prop :=
  ∀ s t : State, s.CellsOnOrOff → step s = .next t → t.CellsOnOrOff

/-- Every step keeps `pc` at most 0x10FE and every stack entry an address that can be fetched at (rule R24,
the sentence the spec derives). -/
def Obligations.StepKeepsPcInRange : Prop :=
  ∀ s t : State, s.PcInRange → step s = .next t → t.PcInRange

/-- The three invariants hold after reset. The canonical form of memory is the model's own, log entry 19. -/
def Obligations.ResetMeetsTheInvariants : Prop :=
  State.reset.MemoryCanonical ∧ State.reset.CellsOnOrOff ∧ State.reset.PcInRange

/-- The state after reset (rules R40, R241): everything zero except `pc`, the font and `rng`. That `rng` is the
seed is the spec's decision D11, the font's bytes its decision D12; `Config.seed` is free. -/
def Obligations.ResetIsTheStateOfTheTable : Prop :=
  (∀ r, State.reset.getV r = 0x00#8) ∧ State.reset.i = 0x0000#16 ∧ State.reset.pc = 0x0200#16 ∧ State.reset.sp = 0 ∧
  (∀ k : Fin 16, State.reset.stack[k] = 0x0000#16) ∧ State.reset.dt = 0x00#8 ∧ State.reset.st = 0x00#8 ∧
  (∀ a (h : a < Config.font.length), State.reset.mem.read a = Config.font[a]) ∧ Config.font.length = 80 ∧
  (∀ a, 80 ≤ a → State.reset.mem.read a = 0x00#8) ∧
  (∀ cx cy, getCell State.reset.fb cx cy = 0x00#8) ∧ State.reset.rng = Config.seed

/-! ## Rules of the whole machine -/

/-- Rule R41, the complete write map: an instruction that answers a next state has changed only `pc` and what
its row lists; a faulting step nothing; tick only `DT` and `ST`; load only the bytes it copies. The rows of `Fx55`
and `Fx65` rest on the spec's decisions D5 and D6 (log entries 7 and 14), the cells of `Dxyn` on the geometry of
its decision D26 (log entry 17). -/
def Obligations.EachWriterWritesOnlyItsRow : Prop :=
  (∀ (i : Instr) (s t : State), exec i s = .next t → Frame (writeSet s i) s t) ∧
  (∀ (h t : Hardware) (k : KeypadSample) (f : Fault), h.stepWith k = .next (t, .fault f) → t = h) ∧
  (∀ s : State, Frame { delay := true, sound := true } s s.tick ∧ s.tick.pc = s.pc) ∧
  (∀ (s : State) (bytes : List Byte), s.load bytes = s.setMem (s.load bytes).mem ∧
    ∀ a, ¬(0x200 ≤ a ∧ a < 0x200 + bytes.length) → (s.load bytes).mem.read a = s.mem.read a)

/-- Rule R106: no step changes `DT` or `ST` except `Fx15` and `Fx18`; a step changes nothing but what its
instruction's rule lists. The rows of `Fx55` and `Fx65` rest on the spec's decisions D5 and D6 (log entries 7 and
14), the cells of `Dxyn` on the geometry of its decision D26 (log entry 17). -/
def Obligations.StepLeavesTimersToFx15AndFx18 : Prop :=
  ∀ (h t : Hardware) (k : KeypadSample) (o : StepOutcome), h.stepWith k = .next (t, o) →
    ((∀ x, (h.given k).fetchInstr ≠ .ok (.ldDtVx x)) → t.dt = h.dt) ∧
    ((∀ x, (h.given k).fetchInstr ≠ .ok (.ldStVx x)) → t.st = h.st) ∧
    (o = .next → ∀ i, (h.given k).fetchInstr = .ok i → Frame (writeSet (h.given k) i) (h.given k) (t.given k)) ∧
    (o ≠ .next → t = h)

/-- `VF` is left alone by every instruction but the six of rule R22, unless it is the named destination `V[x]`;
after each of the six it is 0x00 or 0x01. The value for `x = 0xF` rests on the spec's decision D7
(`VF_LAST = true`, log entry 8), that `Fx65` with `x = 0xF` leaves it on D5 (log entry 7). -/
def Obligations.FlagIsWrittenByTheSix : Prop :=
  ∀ (i : Instr) (s t : State), exec i s = .next t →
    (writesFlag i = true → t.getV 0xF#4 = 0#8 ∨ t.getV 0xF#4 = 1#8) ∧
    (writesFlag i = false → 0xF#4 ∉ (writeSet s i).regs → t.getV 0xF#4 = s.getV 0xF#4) ∧
    (∀ x, i = .ldVxI x → t.getV 0xF#4 = s.getV 0xF#4)

/-- The keypad sample is consulted by `Ex9E`, `ExA1` and `Fx0A` alone: under every other instruction another
sample changes nothing but the sample itself (rule R223; the sample is the spec's decision D10). -/
def Obligations.OnlyThreeInstructionsReadTheKeypad : Prop :=
  ∀ (i : Instr) (s : State) (k : KeypadSample), readsKeypad i = false →
    exec i (s.withKeys k) = mapNext (fun t => t.withKeys k) (exec i s)

/-- No instruction reads `ST`: another value of it changes no fault and nothing of the next state but `ST`
itself (rules R29, R195; the spec's decision D27 on sound). -/
def Obligations.NoInstructionReadsTheSoundTimer : Prop :=
  ∀ (i : Instr) (s : State) (b : Byte), (∀ x, i ≠ .ldStVx x) →
    exec i (s.setSt b) = mapNext (fun t => t.setSt b) (exec i s)

/-- A store is seen by the very next fetch (rule R64, which the spec derives), byte by byte: after `Fx33` or `Fx55`, at
any `I` where they do not fault, each of the two bytes of the word at the new `pc` is the one just stored at its
address, or what memory held where the store did not reach. -/
def Obligations.StoreIsSeenByTheNextFetch : Prop :=
  ∀ (s : State) (x : Reg),
    (s.i.toNat + 2 ≤ 0xFFF → ∃ t, exec (.ldB x) s = .next t ∧ t.pc = s.pc + 2#16 ∧
      ∀ bytes : List Byte, bytes = [BitVec.ofNat 8 ((s.getV x).toNat / 100),
        BitVec.ofNat 8 ((s.getV x).toNat / 10 % 10), BitVec.ofNat 8 ((s.getV x).toNat % 10)] →
      t.fetchWord = wordOfBytes (overlaid s.mem s.i.toNat bytes t.pc.toNat)
        (overlaid s.mem s.i.toNat bytes (t.pc.toNat + 1))) ∧
    (s.i.toNat + x.toNat ≤ 0xFFF → ∃ t, exec (.ldIVx x) s = .next t ∧ t.pc = s.pc + 2#16 ∧
      ∀ bytes : List Byte, bytes = firstValues s (x.toNat + 1) →
      t.fetchWord = wordOfBytes (overlaid s.mem s.i.toNat bytes t.pc.toNat)
        (overlaid s.mem s.i.toNat bytes (t.pc.toNat + 1)))

/-! ## Control flow -/

/-- Rule R121, `1nnn`. -/
def Obligations.JumpSetsPcToAddr : Prop :=
  ∀ (addr : Addr12) (s : State), decode (encodeNNN 0x1#4 addr) = .ok (.jp addr) ∧
    ∃ t, exec (.jp addr) s = .next t ∧ t.pc.toNat = addr.toNat ∧ Frame {} s t

/-- Rule R127, `Bnnn`: the sum of `addr` and `V[0]`, not reduced to 12 bits. -/
def Obligations.JumpWithOffsetAddsV0 : Prop :=
  ∀ (addr : Addr12) (s : State), decode (encodeNNN 0xB#4 addr) = .ok (.jpV0 addr) ∧
    ∃ t, exec (.jpV0 addr) s = .next t ∧ t.pc.toNat = addr.toNat + (s.getV 0#4).toNat ∧ Frame {} s t

/-- Rule R123, `3xkk`. -/
def Obligations.SkipIfEqualImmediate : Prop :=
  ∀ (x : Reg) (kk : Byte) (s : State), decode (encodeXKK 0x3#4 x kk) = .ok (.seByte x kk) ∧
    ∃ t, exec (.seByte x kk) s = .next t ∧ Frame {} s t ∧
      t.pc.toNat = (s.pc.toNat + if (s.getV x).toNat = kk.toNat then 4 else 2) % 0x10000

/-- Rule R124, `4xkk`: exactly one of `3xkk` and `4xkk` skips. -/
def Obligations.SkipIfNotEqualImmediate : Prop :=
  ∀ (x : Reg) (kk : Byte) (s : State), decode (encodeXKK 0x4#4 x kk) = .ok (.sneByte x kk) ∧
    ∃ t, exec (.sneByte x kk) s = .next t ∧ Frame {} s t ∧
      t.pc.toNat = (s.pc.toNat + if (s.getV x).toNat = kk.toNat then 2 else 4) % 0x10000

/-- Rule R125, `5xy0`. -/
def Obligations.SkipIfRegistersEqual : Prop :=
  ∀ (x y : Reg) (s : State), decode (encodeXYN 0x5#4 x y 0#4) = .ok (.seReg x y) ∧
    (∀ n, n ≠ 0#4 → decode (encodeXYN 0x5#4 x y n) = .error (.unknown (encodeXYN 0x5#4 x y n))) ∧
    ∃ t, exec (.seReg x y) s = .next t ∧ Frame {} s t ∧
      t.pc.toNat = (s.pc.toNat + if (s.getV x).toNat = (s.getV y).toNat then 4 else 2) % 0x10000

/-- Rule R126, `9xy0`. -/
def Obligations.SkipIfRegistersDiffer : Prop :=
  ∀ (x y : Reg) (s : State), decode (encodeXYN 0x9#4 x y 0#4) = .ok (.sneReg x y) ∧
    (∀ n, n ≠ 0#4 → decode (encodeXYN 0x9#4 x y n) = .error (.unknown (encodeXYN 0x9#4 x y n))) ∧
    ∃ t, exec (.sneReg x y) s = .next t ∧ Frame {} s t ∧
      t.pc.toNat = (s.pc.toNat + if (s.getV x).toNat = (s.getV y).toNat then 2 else 4) % 0x10000

/-- `2nnn` (rule R122): below sixteen calls the address of the instruction is stored at `stack[sp]`, `sp` goes
up and `pc` becomes `addr`; at sixteen `StackOverflow` (the spec's decision D3). -/
def Obligations.CallPushesItsOwnAddress : Prop :=
  ∀ (addr : Addr12) (s : State),
    (∀ h : s.sp.val < 16, ∃ t, exec (.call addr) s = .next t ∧ t.stack[s.sp.val] = s.pc ∧
      t.sp.val = s.sp.val + 1 ∧ t.pc.toNat = addr.toNat ∧ Frame { sp := true, entry := true } s t) ∧
    (s.sp.val = 16 → exec (.call addr) s = .fault .stackOverflow)

/-- `00EE` (rule R120): with an entry in use `pc` becomes the entry below `sp` plus 2, `sp` goes down, and the
entry keeps its value; with none `StackUnderflow` (the spec's decisions D3, D18). -/
def Obligations.ReturnGoesTwoPastTheCall : Prop :=
  ∀ s : State,
    (∀ h : s.sp.val ≠ 0, ∃ t, exec .ret s = .next t ∧ t.pc = s.stack[s.sp.val - 1] + 2#16 ∧
      t.sp.val = s.sp.val - 1 ∧ Frame { sp := true } s t) ∧
    (s.sp.val = 0 → exec .ret s = .fault .stackUnderflow)

/-- The call and return law (the worked example S3 of ZHIP8 §8, for every state with a free entry): a call and
then a return leave `sp` as it was and `pc` two past the call. -/
def Obligations.CallThenReturnComesBack : Prop :=
  ∀ (addr : Addr12) (s : State), s.sp.val < 16 →
    ∃ t u, exec (.call addr) s = .next t ∧ exec .ret t = .next u ∧ u.sp = s.sp ∧ u.pc = s.pc + 2#16 ∧
      Frame { entry := true } s u

/-! ## Load and ALU -/

/-- Rule R141, `6xkk`. -/
def Obligations.LoadImmediate : Prop :=
  ∀ (x : Reg) (kk : Byte) (s : State), decode (encodeXKK 0x6#4 x kk) = .ok (.ldByte x kk) ∧
    ∃ t, exec (.ldByte x kk) s = .next t ∧ t.getV x = kk ∧ t.pc = s.pc + 2#16 ∧ Frame { regs := [x] } s t

/-- Rule R142, `7xkk`: wrapping, and `VF` is not written unless it is `V[x]`. -/
def Obligations.AddImmediate : Prop :=
  ∀ (x : Reg) (kk : Byte) (s : State), decode (encodeXKK 0x7#4 x kk) = .ok (.addByte x kk) ∧
    ∃ t, exec (.addByte x kk) s = .next t ∧ (t.getV x).toNat = ((s.getV x).toNat + kk.toNat) % 256 ∧
      t.pc = s.pc + 2#16 ∧ Frame { regs := [x] } s t

/-- Rule R143, `8xy0`. -/
def Obligations.CopyRegister : Prop :=
  ∀ (x y : Reg) (s : State), decode (encodeXYN 0x8#4 x y 0x0#4) = .ok (.ldReg x y) ∧
    ∃ t, exec (.ldReg x y) s = .next t ∧ t.getV x = s.getV y ∧ t.pc = s.pc + 2#16 ∧ Frame { regs := [x] } s t

/-- Rules R144, R145, R146, `8xy1`, `8xy2`, `8xy3`: bit by bit, and `VF` unchanged unless it is `V[x]`. -/
def Obligations.OrAndXorAreBitwise : Prop :=
  ∀ (x y : Reg) (s : State),
    (decode (encodeXYN 0x8#4 x y 0x1#4) = .ok (.orReg x y) ∧ ∃ t, exec (.orReg x y) s = .next t ∧
      (∀ b, (t.getV x).getLsbD b = ((s.getV x).getLsbD b || (s.getV y).getLsbD b)) ∧
      t.pc = s.pc + 2#16 ∧ Frame { regs := [x] } s t) ∧
    (decode (encodeXYN 0x8#4 x y 0x2#4) = .ok (.andReg x y) ∧ ∃ t, exec (.andReg x y) s = .next t ∧
      (∀ b, (t.getV x).getLsbD b = ((s.getV x).getLsbD b && (s.getV y).getLsbD b)) ∧
      t.pc = s.pc + 2#16 ∧ Frame { regs := [x] } s t) ∧
    (decode (encodeXYN 0x8#4 x y 0x3#4) = .ok (.xorReg x y) ∧ ∃ t, exec (.xorReg x y) s = .next t ∧
      (∀ b, (t.getV x).getLsbD b = ((s.getV x).getLsbD b ^^ (s.getV y).getLsbD b)) ∧
      t.pc = s.pc + 2#16 ∧ Frame { regs := [x] } s t)

/-- `8xy4` (rule R147): the sum modulo 256 and the carry. With `x = 0xF` the flag survives, the spec's decision
D7 (log entry 8). -/
def Obligations.AddSetsCarry : Prop :=
  ∀ (x y : Reg) (s : State), ∃ t, exec (.addReg x y) s = .next t ∧
    (x ≠ 0xF#4 → (t.getV x).toNat = ((s.getV x).toNat + (s.getV y).toNat) % 256) ∧
    (t.getV 0xF#4).toNat = (if (s.getV x).toNat + (s.getV y).toNat > 0xFF then 1 else 0) ∧
    t.pc = s.pc + 2#16 ∧ Frame { regs := [x, 0xF#4] } s t

/-- `8xy5` and `8xy7` (rules R148, R150): the difference modulo 256 and no-borrow, which equality sets. With
`x = 0xF` the flag survives, the spec's decision D7 (log entry 8). -/
def Obligations.SubtractSetsNoBorrow : Prop :=
  ∀ (x y : Reg) (s : State),
    (∃ t, exec (.subReg x y) s = .next t ∧
      (x ≠ 0xF#4 → ((t.getV x).toNat : Int) = ((s.getV x).toNat - (s.getV y).toNat : Int) % 256) ∧
      (t.getV 0xF#4).toNat = (if (s.getV x).toNat ≥ (s.getV y).toNat then 1 else 0) ∧
      t.pc = s.pc + 2#16 ∧ Frame { regs := [x, 0xF#4] } s t) ∧
    (∃ t, exec (.subnReg x y) s = .next t ∧
      (x ≠ 0xF#4 → ((t.getV x).toNat : Int) = ((s.getV y).toNat - (s.getV x).toNat : Int) % 256) ∧
      (t.getV 0xF#4).toNat = (if (s.getV y).toNat ≥ (s.getV x).toNat then 1 else 0) ∧
      t.pc = s.pc + 2#16 ∧ Frame { regs := [x, 0xF#4] } s t)

/-- `8xy6` and `8xyE` (rules R149, R151): `V[x]` shifted in place by one, the bit shifted out in `VF`, `V[y]`
of no effect. With `x = 0xF` the flag survives, the spec's decision D7 (log entry 8). -/
def Obligations.ShiftsMoveOneBitIntoTheFlag : Prop :=
  ∀ (x y : Reg) (s : State),
    (∃ t, exec (.shr x y) s = .next t ∧ (x ≠ 0xF#4 → (t.getV x).toNat = (s.getV x).toNat / 2) ∧
      (t.getV 0xF#4).toNat = (s.getV x).toNat % 2 ∧ t.pc = s.pc + 2#16 ∧ Frame { regs := [x, 0xF#4] } s t) ∧
    (∃ t, exec (.shl x y) s = .next t ∧ (x ≠ 0xF#4 → (t.getV x).toNat = 2 * (s.getV x).toNat % 256) ∧
      (t.getV 0xF#4).toNat = (s.getV x).toNat / 128 ∧ t.pc = s.pc + 2#16 ∧ Frame { regs := [x, 0xF#4] } s t) ∧
    (∀ z, exec (.shr x z) s = exec (.shr x y) s ∧ exec (.shl x z) s = exec (.shl x y) s)

/-! ## Index register and memory -/

/-- Rule R160, `Annn`. -/
def Obligations.LoadIndex : Prop :=
  ∀ (addr : Addr12) (s : State), decode (encodeNNN 0xA#4 addr) = .ok (.ldI addr) ∧
    ∃ t, exec (.ldI addr) s = .next t ∧ t.i.toNat = addr.toNat ∧ t.pc = s.pc + 2#16 ∧ Frame { index := true } s t

/-- `Fx1E` (rule R161): wraps at 16 bits; that no flag is written the spec derives. -/
def Obligations.AddToIndexWrapsAt16Bits : Prop :=
  ∀ (x : Reg) (s : State), ∃ t, exec (.addI x) s = .next t ∧
    t.i.toNat = (s.i.toNat + (s.getV x).toNat) % 0x10000 ∧ t.pc = s.pc + 2#16 ∧ Frame { index := true } s t

/-- `Fx29` (rule R162): five times the whole byte, not masked (the spec's decision D21, log entry 14). -/
def Obligations.LoadGlyphAddress : Prop :=
  ∀ (x : Reg) (s : State), ∃ t, exec (.ldF x) s = .next t ∧
    t.i.toNat = 5 * (s.getV x).toNat ∧ t.pc = s.pc + 2#16 ∧ Frame { index := true } s t

/-- `Fx33` (rule R163): hundreds, tens, units at `I`, `I + 1`, `I + 2`, `I` unchanged; where the last address
is above 0xFFF the whole instruction faults (the spec's decisions D1, D4). -/
def Obligations.StoreDecimalDigits : Prop :=
  ∀ (x : Reg) (s : State),
    (s.i.toNat + 2 ≤ 0xFFF → ∃ t, exec (.ldB x) s = .next t ∧
      (t.mem.read s.i.toNat).toNat = (s.getV x).toNat / 100 ∧
      (t.mem.read (s.i.toNat + 1)).toNat = (s.getV x).toNat / 10 % 10 ∧
      (t.mem.read (s.i.toNat + 2)).toNat = (s.getV x).toNat % 10 ∧
      t.pc = s.pc + 2#16 ∧ Frame { stored := 3 } s t) ∧
    (s.i.toNat + 2 > 0xFFF → exec (.ldB x) s =
      .fault (.memoryFault (if s.i.toNat > 0xFFF then s.i.toNat else 0x1000)))

/-- `Fx55` (rule R164): `V[0]` to `V[x]` inclusive at `I` to `I + x`, `I` unchanged (decision D6); where
`I + x` is above 0xFFF the whole instruction faults (decisions D1, D4). -/
def Obligations.StoreRegistersInclusive : Prop :=
  ∀ (x : Reg) (s : State),
    (s.i.toNat + x.toNat ≤ 0xFFF → ∃ t, exec (.ldIVx x) s = .next t ∧
      (∀ k : Reg, k.toNat ≤ x.toNat → t.mem.read (s.i.toNat + k.toNat) = s.getV k) ∧
      t.pc = s.pc + 2#16 ∧ Frame { stored := x.toNat + 1 } s t) ∧
    (s.i.toNat + x.toNat > 0xFFF → exec (.ldIVx x) s =
      .fault (.memoryFault (if s.i.toNat > 0xFFF then s.i.toNat else 0x1000)))

/-- `Fx65` (rule R165) with the exclusive bound (the spec's decision D5, log entry 7): `V[k]` from `I + k` for
`k < x`, `V[x]` not loaded, `I` unchanged (D6); with `x = 0` it never faults; where the last address read is
above 0xFFF the whole instruction faults (D1, D4). -/
def Obligations.LoadRegistersExclusive : Prop :=
  ∀ (x : Reg) (s : State),
    (x.toNat = 0 ∨ s.i.toNat + x.toNat - 1 ≤ 0xFFF → ∃ t, exec (.ldVxI x) s = .next t ∧
      (∀ k : Reg, k.toNat < x.toNat → t.getV k = s.mem.read (s.i.toNat + k.toNat)) ∧
      (∀ k : Reg, x.toNat ≤ k.toNat → t.getV k = s.getV k) ∧
      t.pc = s.pc + 2#16 ∧ Frame { regs := firstRegs x.toNat } s t) ∧
    (x.toNat ≠ 0 ∧ s.i.toNat + x.toNat - 1 > 0xFFF → exec (.ldVxI x) s =
      .fault (.memoryFault (if s.i.toNat > 0xFFF then s.i.toNat else 0x1000)))

/-- What `Fx55` stored, `Fx65` with the same `x` and the same `I` loads back, but for `V[x]` (decision D5, log
entry 7): from any registers in between, `V[0]` to `V[x-1]` come back and the others stay. -/
def Obligations.LoadAfterStoreRestoresAllButTheLast : Prop :=
  ∀ (x : Reg) (s : State) (w : Vector Byte 16), s.i.toNat + x.toNat ≤ 0xFFF →
    ∃ t u, exec (.ldIVx x) s = .next t ∧ exec (.ldVxI x) { t with v := w } = .next u ∧
      (∀ k : Reg, k.toNat < x.toNat → u.getV k = s.getV k) ∧
      (∀ k : Reg, x.toNat ≤ k.toNat → u.getV k = State.getV { t with v := w } k)

/-! ## Display -/

/-- Rule R181, `00E0`: every cell 0x00, `VF` unchanged. -/
def Obligations.ClearTurnsEveryCellOff : Prop :=
  ∀ s : State, decode 0x00E0#16 = .ok .cls ∧
    ∃ t, exec .cls s = .next t ∧ (∀ cx cy, getCell t.fb cx cy = 0x00#8) ∧ t.pc = s.pc + 2#16 ∧
      Frame { cells := fun _ _ => True } s t

/-- `Dxyn` (rules R180, R182, R183; geometry the spec's decision D26, log entry 17; faults D1): each cell under
a set bit is flipped from its value before the draw, each cell under a clear bit and every cell not under the
sprite is as before, `VF` tells whether some set bit fell on a lit cell; where the last row is above 0xFFF the
whole instruction faults, and with `n = 0` it never does. -/
def Obligations.DrawFlipsTheCellsUnderSetBits : Prop :=
  ∀ (x y : Reg) (n : Nibble) (s : State),
    (n.toNat = 0 ∨ s.i.toNat + n.toNat - 1 ≤ 0xFFF → ∃ t, exec (.drw x y n) s = .next t ∧
      (∀ r c, r < n.toNat → c < 8 →
        getCell t.fb ((s.getV x).toNat + c) ((s.getV y).toNat + r) =
          if (s.mem.read (s.i.toNat + r)).getLsbD (7 - c)
          then getCell s.fb ((s.getV x).toNat + c) ((s.getV y).toNat + r) ^^^ 0xFF#8
          else getCell s.fb ((s.getV x).toNat + c) ((s.getV y).toNat + r)) ∧
      (t.getV 0xF#4 = 1#8 ∨ t.getV 0xF#4 = 0#8) ∧
      (t.getV 0xF#4 = 1#8 ↔ ∃ r c, r < n.toNat ∧ c < 8 ∧ (s.mem.read (s.i.toNat + r)).getLsbD (7 - c) = true ∧
        getCell s.fb ((s.getV x).toNat + c) ((s.getV y).toNat + r) = 0xFF#8) ∧
      t.pc = s.pc + 2#16 ∧ Frame { regs := [0xF#4], cells := underSprite s x y n.toNat } s t) ∧
    (n.toNat ≠ 0 ∧ s.i.toNat + n.toNat - 1 > 0xFFF → exec (.drw x y n) s =
      .fault (.memoryFault (if s.i.toNat > 0xFFF then s.i.toNat else 0x1000)))

/-- Drawing is its own inverse (rule R184, which the spec derives): the same sprite at the same place a second
time, whatever `VF` then holds as long as the coordinates are the same, restores every cell. -/
def Obligations.DrawingTwiceRestoresTheDisplay : Prop :=
  ∀ (x y : Reg) (n : Nibble) (s t : State), exec (.drw x y n) s = .next t →
    t.getV x = s.getV x → t.getV y = s.getV y →
    ∃ u, exec (.drw x y n) t = .next u ∧ ∀ cx cy, getCell u.fb cx cy = getCell s.fb cx cy

/-! ## Keypad, timers, random -/

/-- `Ex9E` and `ExA1` (rules R190, R191): for a key number 0 to 15 one skips when the sample holds the key and
the other when it does not; above 15 both fault, unmasked (the spec's decision D9, log entry 11). -/
def Obligations.KeypadSkipsFollowTheSample : Prop :=
  ∀ (x : Reg) (s : State),
    ((s.getV x).toNat ≤ 15 →
      (∃ t, exec (.skp x) s = .next t ∧ Frame {} s t ∧
        t.pc = s.pc + if s.keys.down.getLsbD (s.getV x).toNat then 4#16 else 2#16) ∧
      (∃ t, exec (.sknp x) s = .next t ∧ Frame {} s t ∧
        t.pc = s.pc + if s.keys.down.getLsbD (s.getV x).toNat then 2#16 else 4#16)) ∧
    ((s.getV x).toNat > 15 →
      exec (.skp x) s = .fault (.keyIndexFault (s.getV x)) ∧
      exec (.sknp x) s = .fault (.keyIndexFault (s.getV x)))

/-- `Fx0A` (rule R192, details the spec's decision D24, log entry 18): with a key reported it is written to
`V[x]` and `pc` advances; with none the whole state is as before, and the instruction makes no progress. That this
is answered as a next state, where the spec's outcome is `AwaitingKey`, is the model's own choice (log entry 1). -/
def Obligations.KeyWaitTakesTheReportedKey : Prop :=
  ∀ (x : Reg) (s : State),
    (∀ k, s.keys.last = some k → ∃ t, exec (.ldVxK x) s = .next t ∧ (t.getV x).toNat = k.toNat ∧
      t.pc = s.pc + 2#16 ∧ Frame { regs := [x] } s t) ∧
    (s.keys.last = none → exec (.ldVxK x) s = .next s)

/-- `Fx07`, `Fx15`, `Fx18` (rules R193, R194, R195; which is which is the spec's decision D23, log entry
16). -/
def Obligations.TimerMoves : Prop :=
  ∀ (x : Reg) (s : State),
    (∃ t, exec (.ldVxDt x) s = .next t ∧ t.getV x = s.dt ∧ t.pc = s.pc + 2#16 ∧ Frame { regs := [x] } s t) ∧
    (∃ t, exec (.ldDtVx x) s = .next t ∧ t.dt = s.getV x ∧ t.pc = s.pc + 2#16 ∧ Frame { delay := true } s t) ∧
    (∃ t, exec (.ldStVx x) s = .next t ∧ t.st = s.getV x ∧ t.pc = s.pc + 2#16 ∧ Frame { sound := true } s t)

/-- `Cxkk` (rules R36, R196; the generator's shape is the spec's decision D11, its step function free, log entry
5): the generator advances once, also with `kk = 0`, and `V[x]` is its new state masked. -/
def Obligations.RandomAdvancesOnceAndMasks : Prop :=
  ∀ (x : Reg) (kk : Byte) (s : State), ∃ t, exec (.rnd x kk) s = .next t ∧
    t.rng = Config.rngStep s.rng ∧ t.getV x = Config.rngStep s.rng &&& kk ∧ t.pc = s.pc + 2#16 ∧
    Frame { regs := [x], random := true } s t

/-! ## The host's operations -/

/-- Rule R220: `tick` takes one from each timer, held at zero, and reads and writes nothing else. -/
def Obligations.TickCountsBothTimersDownToZero : Prop :=
  ∀ s : State, s.tick.dt.toNat = s.dt.toNat - 1 ∧ s.tick.st.toNat = s.st.toNat - 1 ∧
    s.tick = (s.setDt s.tick.dt).setSt s.tick.st

/-- `load` (rule R243): byte `i` of the program at `0x200 + i`, every other byte and every register as before;
a program of at most 3584 bytes leaves memory canonical (log entry 19). -/
def Obligations.LoadCopiesTheProgram : Prop :=
  ∀ (s : State) (bytes : List Byte),
    (∀ i (h : i < bytes.length), (s.load bytes).mem.read (0x200 + i) = bytes[i]) ∧
    (∀ a, ¬(0x200 ≤ a ∧ a < 0x200 + bytes.length) → (s.load bytes).mem.read a = s.mem.read a) ∧
    s.load bytes = s.setMem (s.load bytes).mem ∧
    (bytes.length ≤ 3584 → s.MemoryCanonical → (s.load bytes).MemoryCanonical)

/-- The order the host owes (rules R243, R244; refusing what breaks it is the spec's decision D19, log entry
22): one load of at most 3584 bytes, then steps, reads and dumps, each of which is refused before it; a tick at any
time. -/
def Obligations.HostCallsKeepTheOrderOfBoot : Prop :=
  ∀ h : Session,
    (∀ bytes, h.phase = .constructed → bytes.length ≤ 3584 →
      h.call (.load bytes) = .next ({ h with phase := .loaded, machine := h.machine.load bytes }, .done)) ∧
    (∀ bytes, h.phase = .constructed → bytes.length > 3584 → h.call (.load bytes) = .refused .programTooLong) ∧
    (∀ bytes, h.phase = .loaded → h.call (.load bytes) = .refused .alreadyLoaded) ∧
    (∀ k, h.phase = .constructed → h.call (.step k) = .refused .notLoaded) ∧
    (∀ x y, h.phase = .constructed → h.call (.get x y) = .refused .notLoaded) ∧
    (h.phase = .constructed → h.call .dump = .refused .notLoaded) ∧
    (∀ k, h.phase = .loaded → ∃ t o, h.machine.stepUnder h.config k = .next (t, o) ∧
      h.call (.step k) = .next ({ h with machine := t }, .stepped o)) ∧
    h.call .tick = .next ({ h with machine := h.machine.tick }, .done)

/-- Reading the display and dumping (rules R226, R229) change nothing, on a loaded machine (before the load they are
refused: `HostCallsKeepTheOrderOfBoot`). A read gives the cell of the coordinates taken modulo 64 and 32. A dump
gives a line `V<digit>: 0x<2 digits>` for each register, then `PC`, `I ` with its space, and `SP`. The case of each
digit is free; the rising order of the register lines is the model's choice (log entry 23). -/
def Obligations.DisplayReadAndDumpChangeNothing : Prop :=
  ∀ h : Session, h.phase = .loaded →
    (∀ x y, h.call (.get x y) = .next (h, .cell (getCell h.machine.fb (x % 64) (y % 32)))) ∧
    (∀ s d, s = h.machine → d = (fun line column => hexDigit (Config.dumpUpperCase line column)) →
      h.call .dump = .next (h, .text
      ((List.finRange 16).map (fun k =>
          ['V', d k.val 1 k.val, ':', ' ', '0', 'x', d k.val 6 (s.v[k].toNat / 16), d k.val 7 (s.v[k].toNat % 16)]) ++
        [['P', 'C', ':', ' ', '0', 'x', d 16 6 (s.pc.toNat / 4096), d 16 7 (s.pc.toNat / 256 % 16),
            d 16 8 (s.pc.toNat / 16 % 16), d 16 9 (s.pc.toNat % 16)],
         ['I', ' ', ':', ' ', '0', 'x', d 17 6 (s.i.toNat / 4096), d 17 7 (s.i.toNat / 256 % 16),
            d 17 8 (s.i.toNat / 16 % 16), d 17 9 (s.i.toNat % 16)],
         ['S', 'P', ':', ' ', '0', 'x', d 18 6 (s.sp.val / 16), d 18 7 (s.sp.val % 16)]])))

/-! ## Parameters -/

/-- The five open parameters are arguments of the model (rule R6), and no state (rule R39). Under the values of
`Config.parameters` (the spec's decisions D5, D7, D11, D12) the machine is the one of the other statements. Under any
values: the font and the seed stand where the reset table says and the rest of the reset state does not depend on
them; an instruction that uses no parameter is the same; `Cxkk` takes the given step function; with
`FX65_INCLUSIVE` `Fx65` loads `V[x]` too; without `VF_LAST` the result survives in `VF` where `x = 0xF`, and nowhere
else is the order of the two writes seen. That reset memory is in canonical form is the model's own form, log entry
19. -/
def Obligations.ParametersAreArgumentsOfTheMachine : Prop :=
  ((∀ s : State, stepUnder Config.parameters s = step s) ∧
    (∀ (h : Hardware) (k : KeypadSample), h.stepUnder Config.parameters k = h.stepWith k) ∧
    Hardware.resetUnder Config.parameters = Hardware.reset) ∧
  ∀ p : Parameters,
    ((∀ a (h : a < 80), (Hardware.resetUnder p).mem.read a = p.font[a]) ∧
      (∀ a, 80 ≤ a → (Hardware.resetUnder p).mem.read a = 0x00#8) ∧ (Hardware.resetUnder p).mem.wf ∧
      (Hardware.resetUnder p).rng = p.seed ∧
      { Hardware.resetUnder p with mem := Hardware.reset.mem, rng := Hardware.reset.rng } = Hardware.reset) ∧
    (∀ (i : Instr) (s : State), usesParameter i = false → execUnder p i s = exec i s) ∧
    (∀ (x : Reg) (kk : Byte) (s : State), ∃ t, execUnder p (.rnd x kk) s = .next t ∧
      t.rng = p.rngStep s.rng ∧ t.getV x = p.rngStep s.rng &&& kk ∧ t.pc = s.pc + 2#16 ∧
      Frame { regs := [x], random := true } s t) ∧
    (p.fx65Inclusive = false → ∀ (x : Reg) (s : State), execUnder p (.ldVxI x) s = exec (.ldVxI x) s) ∧
    (p.fx65Inclusive = true → ∀ (x : Reg) (s : State),
      (s.i.toNat + x.toNat ≤ 0xFFF → ∃ t, execUnder p (.ldVxI x) s = .next t ∧
        (∀ k : Reg, k.toNat ≤ x.toNat → t.getV k = s.mem.read (s.i.toNat + k.toNat)) ∧
        t.pc = s.pc + 2#16 ∧ Frame { regs := firstRegs (x.toNat + 1) } s t) ∧
      (s.i.toNat + x.toNat > 0xFFF → execUnder p (.ldVxI x) s =
        .fault (.memoryFault (if s.i.toNat > 0xFFF then s.i.toNat else 0x1000)))) ∧
    (∀ (x y : Reg) (s : State) (i : Instr), p.vfLast = true ∨ x ≠ 0xF#4 →
      i ∈ [.addReg x y, .subReg x y, .shr x y, .subnReg x y, .shl x y] → execUnder p i s = exec i s) ∧
    (p.vfLast = false → ∀ (y : Reg) (s : State) (i : Instr) (r : Byte),
      (i, r) ∈ [(.addReg 0xF y, s.getV 0xF + s.getV y), (.subReg 0xF y, s.getV 0xF - s.getV y),
        (.shr 0xF y, s.getV 0xF >>> 1), (.subnReg 0xF y, s.getV y - s.getV 0xF),
        (.shl 0xF y, s.getV 0xF <<< 1)] →
      ∃ t, execUnder p i s = .next t ∧ t.getV 0xF = r ∧ t.pc = s.pc + 2#16 ∧ Frame { regs := [0xF] } s t)
end

