-- ==== Sys2Proof/Laws/Decode.lean ====
section
/-! SUPPORT. The fields of a word put together by format (rule R81), a word put together from its fields, what
the masks of rule R86 leave of a word, and the bytes of a word. -/

namespace Sys2Proof

/-! ## Format NNN -/

@[simp] theorem opField_encodeNNN (op : Nibble) (addr : Addr12) : opField (encodeNNN op addr) = op := by
  ext i hi; interval_cases i <;> simp [opField, encodeNNN]

@[simp] theorem addrField_encodeNNN (op : Nibble) (addr : Addr12) : addrField (encodeNNN op addr) = addr := by
  ext i hi; interval_cases i <;> simp [addrField, encodeNNN]

theorem encodeNNN_fields (w : Word) : encodeNNN (opField w) (addrField w) = w := by
  ext i hi; interval_cases i <;> simp [encodeNNN, opField, addrField]

/-! ## Format XKK -/

@[simp] theorem opField_encodeXKK (op : Nibble) (x : Reg) (kk : Byte) : opField (encodeXKK op x kk) = op := by
  ext i hi; interval_cases i <;> simp [opField, encodeXKK]

@[simp] theorem xField_encodeXKK (op : Nibble) (x : Reg) (kk : Byte) : xField (encodeXKK op x kk) = x := by
  ext i hi; interval_cases i <;> simp [xField, encodeXKK]

@[simp] theorem kkField_encodeXKK (op : Nibble) (x : Reg) (kk : Byte) : kkField (encodeXKK op x kk) = kk := by
  ext i hi; interval_cases i <;> simp [kkField, encodeXKK]

theorem encodeXKK_fields (w : Word) : encodeXKK (opField w) (xField w) (kkField w) = w := by
  ext i hi; interval_cases i <;> simp [encodeXKK, opField, xField, kkField]

/-! ## Format XYN -/

@[simp] theorem opField_encodeXYN (op : Nibble) (x y : Reg) (n : Nibble) : opField (encodeXYN op x y n) = op := by
  ext i hi; interval_cases i <;> simp [opField, encodeXYN]

@[simp] theorem xField_encodeXYN (op : Nibble) (x y : Reg) (n : Nibble) : xField (encodeXYN op x y n) = x := by
  ext i hi; interval_cases i <;> simp [xField, encodeXYN]

@[simp] theorem yField_encodeXYN (op : Nibble) (x y : Reg) (n : Nibble) : yField (encodeXYN op x y n) = y := by
  ext i hi; interval_cases i <;> simp [yField, encodeXYN]

@[simp] theorem nField_encodeXYN (op : Nibble) (x y : Reg) (n : Nibble) : nField (encodeXYN op x y n) = n := by
  ext i hi; interval_cases i <;> simp [nField, encodeXYN]

theorem encodeXYN_fields (w : Word) : encodeXYN (opField w) (xField w) (yField w) (nField w) = w := by
  ext i hi; interval_cases i <;> simp [encodeXYN, opField, xField, yField, nField]

/-! ## Masks (rule R86) -/

theorem encodeNNN_and_F000 (op : Nibble) (addr : Addr12) :
    encodeNNN op addr &&& 0xF000#16 = encodeNNN op 0 := by
  ext i hi; interval_cases i <;> simp [encodeNNN]

theorem encodeXKK_and_F000 (op : Nibble) (x : Reg) (kk : Byte) :
    encodeXKK op x kk &&& 0xF000#16 = encodeXKK op 0 0 := by
  ext i hi; interval_cases i <;> simp [encodeXKK]

theorem encodeXYN_and_F000 (op : Nibble) (x y : Reg) (n : Nibble) :
    encodeXYN op x y n &&& 0xF000#16 = encodeXYN op 0 0 0 := by
  ext i hi; interval_cases i <;> simp [encodeXYN]

theorem encodeXYN_and_F00F (op : Nibble) (x y : Reg) (n : Nibble) :
    encodeXYN op x y n &&& 0xF00F#16 = encodeXYN op 0 0 n := by
  ext i hi; interval_cases i <;> simp [encodeXYN]

theorem encodeXKK_and_F0FF (op : Nibble) (x : Reg) (kk : Byte) :
    encodeXKK op x kk &&& 0xF0FF#16 = encodeXKK op 0 kk := by
  ext i hi; interval_cases i <;> simp [encodeXKK]

/-! ## Bytes of a word (rule R50) -/

@[simp] theorem wordOfBytes_bytes (w : Word) : wordOfBytes (highByte w) (lowByte w) = w := by
  ext i hi; interval_cases i <;> simp [wordOfBytes, highByte, lowByte]

@[simp] theorem highByte_wordOfBytes (hi lo : Byte) : highByte (wordOfBytes hi lo) = hi := by
  ext i h; interval_cases i <;> simp [wordOfBytes, highByte]

@[simp] theorem lowByte_wordOfBytes (hi lo : Byte) : lowByte (wordOfBytes hi lo) = lo := by
  ext i h; interval_cases i <;> simp [wordOfBytes, lowByte]

/-! ## The decoder's two answers -/

theorem decode_eq_ok {w : Word} {i : Instr} : decode w = .ok i ↔ decodeFamily w = some i := by
  unfold decode; cases decodeFamily w <;> simp

theorem decode_eq_error {w : Word} {e : DecodeError} :
    decode w = .error e ↔ decodeFamily w = none ∧ e = .unknown w := by
  unfold decode; cases decodeFamily w <;> simp [eq_comm]

/-! ## A word one row of the opcode map covers is legal (rule R84) -/

theorem legalWord_of_row {w : Word} (r : OpcodeRow) (hr : r ∈ opcodeRows) (h : w &&& r.mask = r.pattern) :
    legalWord w = true :=
  List.any_eq_true.2 ⟨r, hr, by simp [OpcodeRow.covers, h]⟩

end Sys2Proof
end

