-- ==== Sys2Proof/Laws/Display.lean ====
section
/-! SUPPORT. What the display operations do: a cell read after a cell written, and that drawing keeps every cell
0x00 or 0xFF. -/

namespace Sys2Proof.Machine

/-- A cell read after a cell written: coordinates name the same cell when they agree modulo 64 and 32
(rule R180). -/
theorem getCell_setCell (f : FrameBuffer) (x y cx cy : Nat) (b : Byte) :
    getCell (setCell f x y b) cx cy =
      if cx % 64 = x % 64 ∧ cy % 32 = y % 32 then b else getCell f cx cy := by
  by_cases hy : y % 32 = cy % 32
  · by_cases hx : x % 64 = cx % 64
    · simp [getCell, setCell, Config.dispH, Config.dispW, hx, hy]
    · simp [getCell, setCell, Config.dispH, Config.dispW, hx, Ne.symm hx, hy]
  · simp [getCell, setCell, Config.dispH, Config.dispW, hy, Ne.symm hy]

/-- Coordinates are taken modulo the size of the surface (rule R180). -/
theorem getCell_mod (f : FrameBuffer) (cx cy : Nat) : getCell f (cx % 64) (cy % 32) = getCell f cx cy := by
  simp [getCell, Config.dispH, Config.dispW]

@[simp] theorem getCell_clearBuffer (cx cy : Nat) : getCell clearBuffer cx cy = 0x00#8 := by
  simp [getCell, clearBuffer]

/-! ## Every cell 0x00 or 0xFF (rule R35) -/

theorem cellsLegal_iff (f : FrameBuffer) :
    cellsLegal f ↔ ∀ cx cy, getCell f cx cy = 0x00#8 ∨ getCell f cx cy = 0xFF#8 := by
  constructor
  · intro h cx cy
    exact h _ (Vector.getElem_mem _) _ (Vector.getElem_mem _)
  · intro h row hrow b hb
    obtain ⟨cy, hcy, rfl⟩ := Vector.mem_iff_getElem.1 hrow
    obtain ⟨cx, hcx, rfl⟩ := Vector.mem_iff_getElem.1 hb
    simpa [getCell, Config.dispH, Config.dispW, Nat.mod_eq_of_lt hcy, Nat.mod_eq_of_lt hcx] using h cx cy

theorem cellsLegal_clearBuffer : cellsLegal clearBuffer := by
  simp [cellsLegal_iff]

theorem cellsLegal_setCell {f : FrameBuffer} (x y : Nat) {b : Byte} (h : cellsLegal f)
    (hb : b = 0x00#8 ∨ b = 0xFF#8) : cellsLegal (setCell f x y b) := by
  rw [cellsLegal_iff] at h ⊢
  intro cx cy
  rw [getCell_setCell]
  split
  · exact hb
  · exact h cx cy

theorem cellsLegal_drawBit {c : Canvas} (x y : Nat) (bit : Bool) (h : cellsLegal c.fb) :
    cellsLegal (c.drawBit x y bit).fb := by
  cases bit with
  | false => exact h
  | true =>
    refine cellsLegal_setCell x y h ?_
    rcases (cellsLegal_iff _).1 h x y with e | e <;> simp [e, Config.cellOn]

theorem cellsLegal_drawRow {c : Canvas} (x y : Nat) (row : Byte) (h : cellsLegal c.fb) :
    cellsLegal (c.drawRow x y row).fb := by
  unfold Canvas.drawRow
  generalize List.range 8 = ks
  induction ks generalizing c with
  | nil => exact h
  | cons k ks ih => exact ih (cellsLegal_drawBit _ _ _ h)

theorem cellsLegal_drawRows {c : Canvas} (x y : Nat) (rows : List Byte) (h : cellsLegal c.fb) :
    cellsLegal (c.drawRows x y rows).fb := by
  induction rows generalizing c y with
  | nil => exact h
  | cons row rows ih => exact ih (y + 1) (cellsLegal_drawRow x y row h)

/-! ## One bit of a sprite (rules R182, R183) -/

theorem getCell_drawBit (c : Canvas) (x y : Nat) (bit : Bool) (cx cy : Nat) :
    getCell (c.drawBit x y bit).fb cx cy =
      if bit ∧ cx % 64 = x % 64 ∧ cy % 32 = y % 32 then getCell c.fb cx cy ^^^ 0xFF#8
      else getCell c.fb cx cy := by
  cases bit with
  | false => simp [Canvas.drawBit]
  | true =>
    simp only [Canvas.drawBit, if_true, getCell_setCell, true_and]
    split
    · rename_i h
      rw [← getCell_mod c.fb cx cy, ← getCell_mod c.fb x y, h.1, h.2]
    · rfl

theorem hit_drawBit (c : Canvas) (x y : Nat) (bit : Bool) :
    (c.drawBit x y bit).hit = (c.hit || (bit && getCell c.fb x y == 0xFF#8)) := by
  cases bit <;> simp [Canvas.drawBit, Config.cellOn]

@[simp] theorem spriteRows_length (m : Memory) (base n : Nat) : (spriteRows m base n).length = n := by
  simp [spriteRows]

@[simp] theorem getElem_spriteRows (m : Memory) (base n r : Nat) (h : r < (spriteRows m base n).length) :
    (spriteRows m base n)[r] = m.read (base + r) := by
  simp [spriteRows]

end Sys2Proof.Machine
end

