-- ==== Sys2Proof/Laws/Memory.lean ====
section
/-! SUPPORT. What the memory operations do: a read after a write, and that every operation keeps the canonical
form; what the range guard answers. -/

namespace Sys2Proof.Machine

/-! ## Reads after `erase`, `insert`, `write` -/

@[simp] theorem Memory.read_nil (a : Nat) : Memory.read [] a = Memory.unlisted a := rfl

theorem Memory.read_cons (b : Nat) (v : Byte) (m : Memory) (a : Nat) :
    Memory.read ((b, v) :: m) a = if b = a then v else Memory.read m a := rfl

theorem Memory.read_erase (m : Memory) (a c : Nat) :
    (Memory.erase m a).read c = if c = a then Memory.unlisted a else m.read c := by
  induction m with
  | nil => by_cases h : c = a <;> simp [Memory.erase, h]
  | cons p m ih =>
    obtain ⟨b, v⟩ := p
    by_cases hb : b = a
    · subst hb
      by_cases hc : c = b
      · subst hc; simpa [Memory.erase] using ih
      · simp [Memory.erase, ih, hc, Memory.read_cons, Ne.symm hc]
    · by_cases hc : c = a
      · subst hc; simp [Memory.erase, hb, Memory.read_cons, ih]
      · simp [Memory.erase, hb, Memory.read_cons, ih, hc]

theorem Memory.read_insert_ne (m : Memory) (a c : Nat) (v : Byte) (h : c ≠ a) :
    (Memory.insert m a v).read c = m.read c := by
  induction m with
  | nil => simp [Memory.insert, Memory.read_cons, Ne.symm h]
  | cons p m ih =>
    obtain ⟨b, w⟩ := p
    by_cases hb : a < b
    · simp [Memory.insert, hb, Memory.read_cons, Ne.symm h]
    · simp [Memory.insert, hb, Memory.read_cons, ih]

theorem Memory.mem_erase {m : Memory} {a : Nat} {p : Host.Cell} :
    p ∈ Memory.erase m a ↔ p ∈ m ∧ p.1 ≠ a := by
  induction m with
  | nil => simp [Memory.erase]
  | cons q m ih =>
    obtain ⟨b, v⟩ := q
    by_cases hb : b = a
    · simp only [Memory.erase, hb, if_true, ih, List.mem_cons]
      constructor
      · exact fun ⟨h, hn⟩ => ⟨.inr h, hn⟩
      · rintro ⟨rfl | h, hn⟩
        · exact absurd rfl hn
        · exact ⟨h, hn⟩
    · simp only [Memory.erase, hb, if_false, List.mem_cons, ih]
      constructor
      · rintro (rfl | ⟨h, hn⟩)
        · exact ⟨.inl rfl, hb⟩
        · exact ⟨.inr h, hn⟩
      · rintro ⟨rfl | h, hn⟩
        · exact .inl rfl
        · exact .inr ⟨h, hn⟩

theorem Memory.read_insert_self (m : Memory) (a : Nat) (v : Byte) (h : ∀ p ∈ m, p.1 ≠ a) :
    (Memory.insert m a v).read a = v := by
  induction m with
  | nil => simp [Memory.insert, Memory.read_cons]
  | cons p m ih =>
    obtain ⟨b, w⟩ := p
    have hb : b ≠ a := h (b, w) (by simp)
    by_cases hab : a < b
    · simp [Memory.insert, hab, Memory.read_cons]
    · simp [Memory.insert, hab, Memory.read_cons, hb, ih fun p hp => h p (by simp [hp])]

/-- A read after a write: the byte written at its address, every other address as before (rule R58). It holds
of every list of cells, canonical or not. -/
theorem Memory.read_write (m : Memory) (a c : Nat) (v : Byte) :
    (Memory.write m a v).read c = if c = a then v else m.read c := by
  by_cases hv : v = Memory.unlisted a
  · by_cases hc : c = a
    · simp [Memory.write, ← hv, Memory.read_erase, hc]
    · simp [Memory.write, ← hv, Memory.read_erase, hc]
  · by_cases hc : c = a
    · subst hc
      simp [Memory.write, hv, Memory.read_insert_self _ _ _ fun p hp => (Memory.mem_erase.1 hp).2]
    · simp [Memory.write, hv, Memory.read_insert_ne _ _ _ _ hc, Memory.read_erase, hc]

/-- A read after a block of writes: inside the block the byte of its place, outside it as before (rule R51). -/
theorem Memory.read_writeBytes (bs : List Byte) (m : Memory) (base c : Nat) :
    (Memory.writeBytes m base bs).read c =
      if h : base ≤ c ∧ c < base + bs.length then bs[c - base]'(by omega) else m.read c := by
  induction bs generalizing m base with
  | nil => simp [Memory.writeBytes]
  | cons b bs ih =>
    rw [Memory.writeBytes, ih, Memory.read_write]
    by_cases h1 : base + 1 ≤ c ∧ c < base + 1 + bs.length
    · have h2 : base ≤ c ∧ c < base + (b :: bs).length := by simp; omega
      rw [dif_pos h1, dif_pos h2]
      have : c - base = (c - (base + 1)) + 1 := by omega
      simp [this]
    · rw [dif_neg h1]
      by_cases hc : c = base
      · subst hc
        simp
      · have h2 : ¬(base ≤ c ∧ c < base + (b :: bs).length) := by simp; omega
        rw [if_neg hc, dif_neg h2]

/-! ## The canonical form is kept -/

theorem Memory.erase_sublist (m : Memory) (a : Nat) : (Memory.erase m a).Sublist m := by
  induction m with
  | nil => simp [Memory.erase]
  | cons p m ih =>
    obtain ⟨b, v⟩ := p
    by_cases hb : b = a
    · simpa [Memory.erase, hb] using ih.cons (b, v)
    · simpa [Memory.erase, hb] using ih.cons_cons (b, v)

theorem Memory.erase_wf {m : Memory} (a : Nat) (h : Memory.wf m) : (Memory.erase m a).wf :=
  ⟨h.1.sublist (Memory.erase_sublist m a), fun p hp => h.2 p (Memory.mem_erase.1 hp).1⟩

theorem Memory.mem_insert {m : Memory} {a : Nat} {v : Byte} {p : Host.Cell} :
    p ∈ Memory.insert m a v ↔ p = (a, v) ∨ p ∈ m := by
  induction m with
  | nil => simp [Memory.insert]
  | cons q m ih =>
    obtain ⟨b, w⟩ := q
    by_cases hb : a < b
    · simp [Memory.insert, hb]
    · simp only [Memory.insert, hb, if_false, List.mem_cons, ih]
      tauto

theorem Memory.insert_sorted {m : Memory} {a : Nat} {v : Byte}
    (h : m.Pairwise fun p q : Host.Cell => p.1 < q.1) (hn : ∀ p ∈ m, p.1 ≠ a) :
    (Memory.insert m a v).Pairwise fun p q : Host.Cell => p.1 < q.1 := by
  induction m with
  | nil => simp [Memory.insert]
  | cons q m ih =>
    obtain ⟨b, w⟩ := q
    have hba : b ≠ a := hn (b, w) (by simp)
    rw [List.pairwise_cons] at h
    by_cases hb : a < b
    · simp only [Memory.insert, hb, if_true, List.pairwise_cons]
      refine ⟨?_, h⟩
      rintro p (_ | ⟨_, hp⟩)
      · exact hb
      · exact hb.trans (h.1 p hp)
    · simp only [Memory.insert, hb, if_false, List.pairwise_cons]
      refine ⟨fun p hp => ?_, ih h.2 fun p hp => hn p (by simp [hp])⟩
      rcases Memory.mem_insert.1 hp with rfl | hp
      · simp; omega
      · exact h.1 p hp

/-- A write inside memory keeps the canonical form. -/
theorem Memory.write_wf {m : Memory} {a : Nat} (v : Byte) (h : Memory.wf m) (ha : a < 4096) :
    (Memory.write m a v).wf := by
  by_cases hv : v = Memory.unlisted a
  · simpa [Memory.write, ← hv] using Memory.erase_wf a h
  · have he := Memory.erase_wf a h
    simp only [Memory.write, hv, if_false]
    refine ⟨Memory.insert_sorted he.1 fun p hp => (Memory.mem_erase.1 hp).2, fun p hp => ?_⟩
    rcases Memory.mem_insert.1 hp with rfl | hp
    · exact ⟨ha, hv⟩
    · exact he.2 p hp

/-- A block of writes inside memory keeps the canonical form. -/
theorem Memory.writeBytes_wf {m : Memory} (base : Nat) (bs : List Byte) (h : Memory.wf m)
    (hb : base + bs.length ≤ 4096 ∨ bs = []) : (Memory.writeBytes m base bs).wf := by
  induction bs generalizing m base with
  | nil => exact h
  | cons b bs ih =>
    have hlen : base + (bs.length + 1) ≤ 4096 := by simpa using hb
    exact ih (base + 1) (Memory.write_wf b h (by omega)) (.inl (by omega))

theorem State.reset_memory_wf : State.reset.mem.wf := by simp [State.reset, Hardware.reset, Memory.wf]

/-! ## The range guard (rules R55, R56, R57) -/

theorem inMemory_iff (base count : Nat) : inMemory base count = true ↔ count = 0 ∨ base + count ≤ 4096 := by
  simp [inMemory]

/-- Inside memory the guarded instruction goes on. -/
theorem guardRange_of_inside {σ : Type} {base count : Nat} (go : Out σ) (h : count = 0 ∨ base + count ≤ 4096) :
    guardRange base count go = go := by
  simp [guardRange, (inMemory_iff base count).2 h]

/-- Outside memory it faults, with the lowest effective address outside. -/
theorem guardRange_of_outside {σ : Type} {base count : Nat} (go : Out σ) (h : ¬(count = 0 ∨ base + count ≤ 4096)) :
    guardRange base count go = .fault (.memoryFault (max base 4096)) := by
  have : inMemory base count = false := by
    rw [Bool.eq_false_iff]; exact fun e => h ((inMemory_iff base count).1 e)
  simp [guardRange, this, raise, firstOutside]

/-- All a guarded instruction that answers a next state can have done. -/
theorem guardRange_eq_next {σ : Type} {base count : Nat} {t u : σ}
    (h : guardRange base count (.next t) = .next u) : (count = 0 ∨ base + count ≤ 4096) ∧ u = t := by
  by_cases hr : count = 0 ∨ base + count ≤ 4096
  · rw [guardRange_of_inside _ hr] at h
    exact ⟨hr, by injection h with h; exact h.symm⟩
  · rw [guardRange_of_outside _ hr] at h
    exact nomatch h

/-! ## Operand bytes -/

@[simp] theorem bcdBytes_length (a : Byte) : (bcdBytes a).length = 3 := rfl

@[simp] theorem State.regBlock_length (s : State) (count : Nat) :
    (s.regBlock count).length = min count 16 := by
  simp [State.regBlock]

theorem State.getElem_regBlock (s : State) (count k : Nat) (h : k < (s.regBlock count).length) :
    (s.regBlock count)[k] = s.getV (BitVec.ofNat 4 k) := by
  have hk : k < 16 := by simp at h; omega
  have : k % 16 = k := Nat.mod_eq_of_lt hk
  simp [State.regBlock, State.getV, this]

end Sys2Proof.Machine
end

