-- ==== Sys2Proof/Laws/PerInstr.lean ====
section
/-! SUPPORT. Statements about each instruction as syntax, one lemma a constructor. -/

namespace Sys2Proof.Laws.WordLegal

/-- The instruction's word is one of the words of its row of the opcode map (rules R84, R86). -/
def Statement (i : Instr) : Prop :=
  ∃ r ∈ opcodeRows, r.mnemonic = i.mnemonic ∧ encode i &&& r.mask = r.pattern

theorem cls : Statement (.cls) :=
  ⟨⟨"CLS", 0xFFFF, 0x00E0⟩, by simp [opcodeRows], rfl, rfl⟩

theorem ret : Statement (.ret) :=
  ⟨⟨"RET", 0xFFFF, 0x00EE⟩, by simp [opcodeRows], rfl, rfl⟩

theorem jp (addr : Addr12) : Statement (.jp addr) :=
  ⟨⟨"JP_addr", 0xF000, 0x1000⟩, by simp [opcodeRows], rfl, encodeNNN_and_F000 _ _⟩

theorem call (addr : Addr12) : Statement (.call addr) :=
  ⟨⟨"CALL_addr", 0xF000, 0x2000⟩, by simp [opcodeRows], rfl, encodeNNN_and_F000 _ _⟩

theorem seByte (x : Reg) (kk : Byte) : Statement (.seByte x kk) :=
  ⟨⟨"SE_Vx__byte", 0xF000, 0x3000⟩, by simp [opcodeRows], rfl, encodeXKK_and_F000 _ _ _⟩

theorem sneByte (x : Reg) (kk : Byte) : Statement (.sneByte x kk) :=
  ⟨⟨"SNE_Vx__byte", 0xF000, 0x4000⟩, by simp [opcodeRows], rfl, encodeXKK_and_F000 _ _ _⟩

theorem seReg (x y : Reg) : Statement (.seReg x y) :=
  ⟨⟨"SE_Vx__Vy", 0xF00F, 0x5000⟩, by simp [opcodeRows], rfl, encodeXYN_and_F00F _ _ _ _⟩

theorem ldByte (x : Reg) (kk : Byte) : Statement (.ldByte x kk) :=
  ⟨⟨"LD_Vx__byte", 0xF000, 0x6000⟩, by simp [opcodeRows], rfl, encodeXKK_and_F000 _ _ _⟩

theorem addByte (x : Reg) (kk : Byte) : Statement (.addByte x kk) :=
  ⟨⟨"ADD_Vx__byte", 0xF000, 0x7000⟩, by simp [opcodeRows], rfl, encodeXKK_and_F000 _ _ _⟩

theorem ldReg (x y : Reg) : Statement (.ldReg x y) :=
  ⟨⟨"LD_Vx__Vy", 0xF00F, 0x8000⟩, by simp [opcodeRows], rfl, encodeXYN_and_F00F _ _ _ _⟩

theorem orReg (x y : Reg) : Statement (.orReg x y) :=
  ⟨⟨"OR_Vx__Vy", 0xF00F, 0x8001⟩, by simp [opcodeRows], rfl, encodeXYN_and_F00F _ _ _ _⟩

theorem andReg (x y : Reg) : Statement (.andReg x y) :=
  ⟨⟨"AND_Vx__Vy", 0xF00F, 0x8002⟩, by simp [opcodeRows], rfl, encodeXYN_and_F00F _ _ _ _⟩

theorem xorReg (x y : Reg) : Statement (.xorReg x y) :=
  ⟨⟨"XOR_Vx__Vy", 0xF00F, 0x8003⟩, by simp [opcodeRows], rfl, encodeXYN_and_F00F _ _ _ _⟩

theorem addReg (x y : Reg) : Statement (.addReg x y) :=
  ⟨⟨"ADD_Vx__Vy", 0xF00F, 0x8004⟩, by simp [opcodeRows], rfl, encodeXYN_and_F00F _ _ _ _⟩

theorem subReg (x y : Reg) : Statement (.subReg x y) :=
  ⟨⟨"SUB_Vx__Vy", 0xF00F, 0x8005⟩, by simp [opcodeRows], rfl, encodeXYN_and_F00F _ _ _ _⟩

theorem shr (x y : Reg) : Statement (.shr x y) :=
  ⟨⟨"SHR_Vx", 0xF00F, 0x8006⟩, by simp [opcodeRows], rfl, encodeXYN_and_F00F _ _ _ _⟩

theorem subnReg (x y : Reg) : Statement (.subnReg x y) :=
  ⟨⟨"SUBN_Vx__Vy", 0xF00F, 0x8007⟩, by simp [opcodeRows], rfl, encodeXYN_and_F00F _ _ _ _⟩

theorem shl (x y : Reg) : Statement (.shl x y) :=
  ⟨⟨"SHL_Vx", 0xF00F, 0x800E⟩, by simp [opcodeRows], rfl, encodeXYN_and_F00F _ _ _ _⟩

theorem sneReg (x y : Reg) : Statement (.sneReg x y) :=
  ⟨⟨"SNE_Vx__Vy", 0xF00F, 0x9000⟩, by simp [opcodeRows], rfl, encodeXYN_and_F00F _ _ _ _⟩

theorem ldI (addr : Addr12) : Statement (.ldI addr) :=
  ⟨⟨"LD_I__addr", 0xF000, 0xA000⟩, by simp [opcodeRows], rfl, encodeNNN_and_F000 _ _⟩

theorem jpV0 (addr : Addr12) : Statement (.jpV0 addr) :=
  ⟨⟨"JP_V0__addr", 0xF000, 0xB000⟩, by simp [opcodeRows], rfl, encodeNNN_and_F000 _ _⟩

theorem rnd (x : Reg) (kk : Byte) : Statement (.rnd x kk) :=
  ⟨⟨"RND_Vx__byte", 0xF000, 0xC000⟩, by simp [opcodeRows], rfl, encodeXKK_and_F000 _ _ _⟩

theorem drw (x y : Reg) (n : Nibble) : Statement (.drw x y n) :=
  ⟨⟨"DRW_Vx__Vy__nibble", 0xF000, 0xD000⟩, by simp [opcodeRows], rfl, encodeXYN_and_F000 _ _ _ _⟩

theorem skp (x : Reg) : Statement (.skp x) :=
  ⟨⟨"SKP_Vx", 0xF0FF, 0xE09E⟩, by simp [opcodeRows], rfl, encodeXKK_and_F0FF _ _ _⟩

theorem sknp (x : Reg) : Statement (.sknp x) :=
  ⟨⟨"SKNP_Vx", 0xF0FF, 0xE0A1⟩, by simp [opcodeRows], rfl, encodeXKK_and_F0FF _ _ _⟩

theorem ldVxDt (x : Reg) : Statement (.ldVxDt x) :=
  ⟨⟨"LD_Vx__DT", 0xF0FF, 0xF007⟩, by simp [opcodeRows], rfl, encodeXKK_and_F0FF _ _ _⟩

theorem ldVxK (x : Reg) : Statement (.ldVxK x) :=
  ⟨⟨"LD_Vx__K", 0xF0FF, 0xF00A⟩, by simp [opcodeRows], rfl, encodeXKK_and_F0FF _ _ _⟩

theorem ldDtVx (x : Reg) : Statement (.ldDtVx x) :=
  ⟨⟨"LD_DT__Vx", 0xF0FF, 0xF015⟩, by simp [opcodeRows], rfl, encodeXKK_and_F0FF _ _ _⟩

theorem ldStVx (x : Reg) : Statement (.ldStVx x) :=
  ⟨⟨"LD_ST__Vx", 0xF0FF, 0xF018⟩, by simp [opcodeRows], rfl, encodeXKK_and_F0FF _ _ _⟩

theorem addI (x : Reg) : Statement (.addI x) :=
  ⟨⟨"ADD_I__Vx", 0xF0FF, 0xF01E⟩, by simp [opcodeRows], rfl, encodeXKK_and_F0FF _ _ _⟩

theorem ldF (x : Reg) : Statement (.ldF x) :=
  ⟨⟨"LD_F__Vx", 0xF0FF, 0xF029⟩, by simp [opcodeRows], rfl, encodeXKK_and_F0FF _ _ _⟩

theorem ldB (x : Reg) : Statement (.ldB x) :=
  ⟨⟨"LD_B__Vx", 0xF0FF, 0xF033⟩, by simp [opcodeRows], rfl, encodeXKK_and_F0FF _ _ _⟩

theorem ldIVx (x : Reg) : Statement (.ldIVx x) :=
  ⟨⟨"LD__I___Vx", 0xF0FF, 0xF055⟩, by simp [opcodeRows], rfl, encodeXKK_and_F0FF _ _ _⟩

theorem ldVxI (x : Reg) : Statement (.ldVxI x) :=
  ⟨⟨"LD_Vx___I", 0xF0FF, 0xF065⟩, by simp [opcodeRows], rfl, encodeXKK_and_F0FF _ _ _⟩

end Sys2Proof.Laws.WordLegal
end

