-- ==== Sys2Proof/Laws/Session.lean ====
section
/-! SUPPORT. What the parameters change, bytes after a store, and how a step on the ten components ends. -/

namespace Sys2Proof.Machine

/-! ## Parameters -/

theorem execUnder_parameters (i : Instr) (s : State) : execUnder Config.parameters i s = exec i s := by
  cases i <;> rfl

theorem Hardware.resetUnder_mem (p : Parameters) :
    (Hardware.resetUnder p).mem = Memory.writeBytes [] 0 p.font.toList := rfl

/-! ## Bytes after a store -/

theorem Memory.read_writeBytes_overlaid (m : Memory) (base : Nat) (bs : List Byte) (a : Nat) :
    (m.writeBytes base bs).read a = overlaid m base bs a := by
  rw [Memory.read_writeBytes, overlaid]
  split
  · rw [List.getElem?_eq_getElem (by omega)]; rfl
  · rfl

/-! ## The outcome of a step -/

variable {run : State → Out State} {h : Hardware} {k : KeypadSample}

theorem Hardware.outcomeOf_next {t : State} (hr : run (h.given k) = .next t) (ha : (h.given k).awaitsKey = false) :
    h.outcomeOf run k = .next (t.toHardware, .next) := by
  simp [Hardware.outcomeOf, hr, ha]

theorem Hardware.outcomeOf_awaitingKey {t : State} (hr : run (h.given k) = .next t)
    (ha : (h.given k).awaitsKey = true) : h.outcomeOf run k = .next (h, .awaitingKey) := by
  simp [Hardware.outcomeOf, hr, ha]

theorem Hardware.outcomeOf_fault {f : Fault} (hr : run (h.given k) = .fault f) :
    h.outcomeOf run k = .next (h, .fault f) := by
  simp [Hardware.outcomeOf, hr]

/-- The steps that await a key: no key reported, and `Fx0A` fetched. -/
theorem Hardware.awaitsKey_given_iff :
    (h.given k).awaitsKey = true ↔ k.last = none ∧ ∃ x, (h.given k).fetchInstr = .ok (.ldVxK x) := by
  unfold State.awaitsKey
  split
  · rename_i x hx; simp [hx, State.keyLast]; rfl
  · rename_i hx; simp; exact fun _ x e => hx x e

end Sys2Proof.Machine
end

