-- ==== Sys2Proof/Laws/State.lean ====
section
/-! SUPPORT. The state's small lemmas: one per field per named update, each by `rfl`, and what reading a
register gives after each update. -/

namespace Sys2Proof.Machine

variable (s : State)

/-! ## `setV` -/

@[simp] theorem State.setV_v (x : Reg) (b : Byte) : (s.setV x b).v = s.v.set x.toNat b x.isLt := rfl
@[simp] theorem State.setV_i (x : Reg) (b : Byte) : (s.setV x b).i = s.i := rfl
@[simp] theorem State.setV_pc (x : Reg) (b : Byte) : (s.setV x b).pc = s.pc := rfl
@[simp] theorem State.setV_sp (x : Reg) (b : Byte) : (s.setV x b).sp = s.sp := rfl
@[simp] theorem State.setV_stack (x : Reg) (b : Byte) : (s.setV x b).stack = s.stack := rfl
@[simp] theorem State.setV_dt (x : Reg) (b : Byte) : (s.setV x b).dt = s.dt := rfl
@[simp] theorem State.setV_st (x : Reg) (b : Byte) : (s.setV x b).st = s.st := rfl
@[simp] theorem State.setV_mem (x : Reg) (b : Byte) : (s.setV x b).mem = s.mem := rfl
@[simp] theorem State.setV_fb (x : Reg) (b : Byte) : (s.setV x b).fb = s.fb := rfl
@[simp] theorem State.setV_rng (x : Reg) (b : Byte) : (s.setV x b).rng = s.rng := rfl
@[simp] theorem State.setV_keys (x : Reg) (b : Byte) : (s.setV x b).keys = s.keys := rfl
@[simp] theorem State.setV_pending (x : Reg) (b : Byte) : (s.setV x b).pending = s.pending := rfl
@[simp] theorem State.setV_turn (x : Reg) (b : Byte) : (s.setV x b).turn = s.turn := rfl

/-! ## `setFlag` -/

@[simp] theorem State.setFlag_v (f : Bool) : (s.setFlag f).v = s.v.set 15 (flagByte f) := rfl
@[simp] theorem State.setFlag_i (f : Bool) : (s.setFlag f).i = s.i := rfl
@[simp] theorem State.setFlag_pc (f : Bool) : (s.setFlag f).pc = s.pc := rfl
@[simp] theorem State.setFlag_sp (f : Bool) : (s.setFlag f).sp = s.sp := rfl
@[simp] theorem State.setFlag_stack (f : Bool) : (s.setFlag f).stack = s.stack := rfl
@[simp] theorem State.setFlag_dt (f : Bool) : (s.setFlag f).dt = s.dt := rfl
@[simp] theorem State.setFlag_st (f : Bool) : (s.setFlag f).st = s.st := rfl
@[simp] theorem State.setFlag_mem (f : Bool) : (s.setFlag f).mem = s.mem := rfl
@[simp] theorem State.setFlag_fb (f : Bool) : (s.setFlag f).fb = s.fb := rfl
@[simp] theorem State.setFlag_rng (f : Bool) : (s.setFlag f).rng = s.rng := rfl
@[simp] theorem State.setFlag_keys (f : Bool) : (s.setFlag f).keys = s.keys := rfl
@[simp] theorem State.setFlag_pending (f : Bool) : (s.setFlag f).pending = s.pending := rfl
@[simp] theorem State.setFlag_turn (f : Bool) : (s.setFlag f).turn = s.turn := rfl

/-! ## `setI` -/

@[simp] theorem State.setI_v (w : Word) : (s.setI w).v = s.v := rfl
@[simp] theorem State.setI_i (w : Word) : (s.setI w).i = w := rfl
@[simp] theorem State.setI_pc (w : Word) : (s.setI w).pc = s.pc := rfl
@[simp] theorem State.setI_sp (w : Word) : (s.setI w).sp = s.sp := rfl
@[simp] theorem State.setI_stack (w : Word) : (s.setI w).stack = s.stack := rfl
@[simp] theorem State.setI_dt (w : Word) : (s.setI w).dt = s.dt := rfl
@[simp] theorem State.setI_st (w : Word) : (s.setI w).st = s.st := rfl
@[simp] theorem State.setI_mem (w : Word) : (s.setI w).mem = s.mem := rfl
@[simp] theorem State.setI_fb (w : Word) : (s.setI w).fb = s.fb := rfl
@[simp] theorem State.setI_rng (w : Word) : (s.setI w).rng = s.rng := rfl
@[simp] theorem State.setI_keys (w : Word) : (s.setI w).keys = s.keys := rfl
@[simp] theorem State.setI_pending (w : Word) : (s.setI w).pending = s.pending := rfl
@[simp] theorem State.setI_turn (w : Word) : (s.setI w).turn = s.turn := rfl
@[simp] theorem State.getV_setI (w : Word) (r : Reg) : (s.setI w).getV r = s.getV r := rfl

/-! ## `setPc` -/

@[simp] theorem State.setPc_v (w : Word) : (s.setPc w).v = s.v := rfl
@[simp] theorem State.setPc_i (w : Word) : (s.setPc w).i = s.i := rfl
@[simp] theorem State.setPc_pc (w : Word) : (s.setPc w).pc = w := rfl
@[simp] theorem State.setPc_sp (w : Word) : (s.setPc w).sp = s.sp := rfl
@[simp] theorem State.setPc_stack (w : Word) : (s.setPc w).stack = s.stack := rfl
@[simp] theorem State.setPc_dt (w : Word) : (s.setPc w).dt = s.dt := rfl
@[simp] theorem State.setPc_st (w : Word) : (s.setPc w).st = s.st := rfl
@[simp] theorem State.setPc_mem (w : Word) : (s.setPc w).mem = s.mem := rfl
@[simp] theorem State.setPc_fb (w : Word) : (s.setPc w).fb = s.fb := rfl
@[simp] theorem State.setPc_rng (w : Word) : (s.setPc w).rng = s.rng := rfl
@[simp] theorem State.setPc_keys (w : Word) : (s.setPc w).keys = s.keys := rfl
@[simp] theorem State.setPc_pending (w : Word) : (s.setPc w).pending = s.pending := rfl
@[simp] theorem State.setPc_turn (w : Word) : (s.setPc w).turn = s.turn := rfl
@[simp] theorem State.getV_setPc (w : Word) (r : Reg) : (s.setPc w).getV r = s.getV r := rfl

/-! ## `advance` -/

@[simp] theorem State.advance_v : (s.advance).v = s.v := rfl
@[simp] theorem State.advance_i : (s.advance).i = s.i := rfl
@[simp] theorem State.advance_pc : (s.advance).pc = s.pc + 2#16 := rfl
@[simp] theorem State.advance_sp : (s.advance).sp = s.sp := rfl
@[simp] theorem State.advance_stack : (s.advance).stack = s.stack := rfl
@[simp] theorem State.advance_dt : (s.advance).dt = s.dt := rfl
@[simp] theorem State.advance_st : (s.advance).st = s.st := rfl
@[simp] theorem State.advance_mem : (s.advance).mem = s.mem := rfl
@[simp] theorem State.advance_fb : (s.advance).fb = s.fb := rfl
@[simp] theorem State.advance_rng : (s.advance).rng = s.rng := rfl
@[simp] theorem State.advance_keys : (s.advance).keys = s.keys := rfl
@[simp] theorem State.advance_pending : (s.advance).pending = s.pending := rfl
@[simp] theorem State.advance_turn : (s.advance).turn = s.turn := rfl
@[simp] theorem State.getV_advance (r : Reg) : (s.advance).getV r = s.getV r := rfl

/-! ## `skipIf` -/

@[simp] theorem State.skipIf_v (c : Bool) : (s.skipIf c).v = s.v := rfl
@[simp] theorem State.skipIf_i (c : Bool) : (s.skipIf c).i = s.i := rfl
@[simp] theorem State.skipIf_pc (c : Bool) : (s.skipIf c).pc = s.pc + if c then 4#16 else 2#16 := rfl
@[simp] theorem State.skipIf_sp (c : Bool) : (s.skipIf c).sp = s.sp := rfl
@[simp] theorem State.skipIf_stack (c : Bool) : (s.skipIf c).stack = s.stack := rfl
@[simp] theorem State.skipIf_dt (c : Bool) : (s.skipIf c).dt = s.dt := rfl
@[simp] theorem State.skipIf_st (c : Bool) : (s.skipIf c).st = s.st := rfl
@[simp] theorem State.skipIf_mem (c : Bool) : (s.skipIf c).mem = s.mem := rfl
@[simp] theorem State.skipIf_fb (c : Bool) : (s.skipIf c).fb = s.fb := rfl
@[simp] theorem State.skipIf_rng (c : Bool) : (s.skipIf c).rng = s.rng := rfl
@[simp] theorem State.skipIf_keys (c : Bool) : (s.skipIf c).keys = s.keys := rfl
@[simp] theorem State.skipIf_pending (c : Bool) : (s.skipIf c).pending = s.pending := rfl
@[simp] theorem State.skipIf_turn (c : Bool) : (s.skipIf c).turn = s.turn := rfl
@[simp] theorem State.getV_skipIf (c : Bool) (r : Reg) : (s.skipIf c).getV r = s.getV r := rfl

/-! ## `setDt` -/

@[simp] theorem State.setDt_v (b : Byte) : (s.setDt b).v = s.v := rfl
@[simp] theorem State.setDt_i (b : Byte) : (s.setDt b).i = s.i := rfl
@[simp] theorem State.setDt_pc (b : Byte) : (s.setDt b).pc = s.pc := rfl
@[simp] theorem State.setDt_sp (b : Byte) : (s.setDt b).sp = s.sp := rfl
@[simp] theorem State.setDt_stack (b : Byte) : (s.setDt b).stack = s.stack := rfl
@[simp] theorem State.setDt_dt (b : Byte) : (s.setDt b).dt = b := rfl
@[simp] theorem State.setDt_st (b : Byte) : (s.setDt b).st = s.st := rfl
@[simp] theorem State.setDt_mem (b : Byte) : (s.setDt b).mem = s.mem := rfl
@[simp] theorem State.setDt_fb (b : Byte) : (s.setDt b).fb = s.fb := rfl
@[simp] theorem State.setDt_rng (b : Byte) : (s.setDt b).rng = s.rng := rfl
@[simp] theorem State.setDt_keys (b : Byte) : (s.setDt b).keys = s.keys := rfl
@[simp] theorem State.setDt_pending (b : Byte) : (s.setDt b).pending = s.pending := rfl
@[simp] theorem State.setDt_turn (b : Byte) : (s.setDt b).turn = s.turn := rfl
@[simp] theorem State.getV_setDt (b : Byte) (r : Reg) : (s.setDt b).getV r = s.getV r := rfl

/-! ## `setSt` -/

@[simp] theorem State.setSt_v (b : Byte) : (s.setSt b).v = s.v := rfl
@[simp] theorem State.setSt_i (b : Byte) : (s.setSt b).i = s.i := rfl
@[simp] theorem State.setSt_pc (b : Byte) : (s.setSt b).pc = s.pc := rfl
@[simp] theorem State.setSt_sp (b : Byte) : (s.setSt b).sp = s.sp := rfl
@[simp] theorem State.setSt_stack (b : Byte) : (s.setSt b).stack = s.stack := rfl
@[simp] theorem State.setSt_dt (b : Byte) : (s.setSt b).dt = s.dt := rfl
@[simp] theorem State.setSt_st (b : Byte) : (s.setSt b).st = b := rfl
@[simp] theorem State.setSt_mem (b : Byte) : (s.setSt b).mem = s.mem := rfl
@[simp] theorem State.setSt_fb (b : Byte) : (s.setSt b).fb = s.fb := rfl
@[simp] theorem State.setSt_rng (b : Byte) : (s.setSt b).rng = s.rng := rfl
@[simp] theorem State.setSt_keys (b : Byte) : (s.setSt b).keys = s.keys := rfl
@[simp] theorem State.setSt_pending (b : Byte) : (s.setSt b).pending = s.pending := rfl
@[simp] theorem State.setSt_turn (b : Byte) : (s.setSt b).turn = s.turn := rfl
@[simp] theorem State.getV_setSt (b : Byte) (r : Reg) : (s.setSt b).getV r = s.getV r := rfl

/-! ## `setMem` -/

@[simp] theorem State.setMem_v (m : Memory) : (s.setMem m).v = s.v := rfl
@[simp] theorem State.setMem_i (m : Memory) : (s.setMem m).i = s.i := rfl
@[simp] theorem State.setMem_pc (m : Memory) : (s.setMem m).pc = s.pc := rfl
@[simp] theorem State.setMem_sp (m : Memory) : (s.setMem m).sp = s.sp := rfl
@[simp] theorem State.setMem_stack (m : Memory) : (s.setMem m).stack = s.stack := rfl
@[simp] theorem State.setMem_dt (m : Memory) : (s.setMem m).dt = s.dt := rfl
@[simp] theorem State.setMem_st (m : Memory) : (s.setMem m).st = s.st := rfl
@[simp] theorem State.setMem_mem (m : Memory) : (s.setMem m).mem = m := rfl
@[simp] theorem State.setMem_fb (m : Memory) : (s.setMem m).fb = s.fb := rfl
@[simp] theorem State.setMem_rng (m : Memory) : (s.setMem m).rng = s.rng := rfl
@[simp] theorem State.setMem_keys (m : Memory) : (s.setMem m).keys = s.keys := rfl
@[simp] theorem State.setMem_pending (m : Memory) : (s.setMem m).pending = s.pending := rfl
@[simp] theorem State.setMem_turn (m : Memory) : (s.setMem m).turn = s.turn := rfl
@[simp] theorem State.getV_setMem (m : Memory) (r : Reg) : (s.setMem m).getV r = s.getV r := rfl

/-! ## `setFb` -/

@[simp] theorem State.setFb_v (f : FrameBuffer) : (s.setFb f).v = s.v := rfl
@[simp] theorem State.setFb_i (f : FrameBuffer) : (s.setFb f).i = s.i := rfl
@[simp] theorem State.setFb_pc (f : FrameBuffer) : (s.setFb f).pc = s.pc := rfl
@[simp] theorem State.setFb_sp (f : FrameBuffer) : (s.setFb f).sp = s.sp := rfl
@[simp] theorem State.setFb_stack (f : FrameBuffer) : (s.setFb f).stack = s.stack := rfl
@[simp] theorem State.setFb_dt (f : FrameBuffer) : (s.setFb f).dt = s.dt := rfl
@[simp] theorem State.setFb_st (f : FrameBuffer) : (s.setFb f).st = s.st := rfl
@[simp] theorem State.setFb_mem (f : FrameBuffer) : (s.setFb f).mem = s.mem := rfl
@[simp] theorem State.setFb_fb (f : FrameBuffer) : (s.setFb f).fb = f := rfl
@[simp] theorem State.setFb_rng (f : FrameBuffer) : (s.setFb f).rng = s.rng := rfl
@[simp] theorem State.setFb_keys (f : FrameBuffer) : (s.setFb f).keys = s.keys := rfl
@[simp] theorem State.setFb_pending (f : FrameBuffer) : (s.setFb f).pending = s.pending := rfl
@[simp] theorem State.setFb_turn (f : FrameBuffer) : (s.setFb f).turn = s.turn := rfl
@[simp] theorem State.getV_setFb (f : FrameBuffer) (r : Reg) : (s.setFb f).getV r = s.getV r := rfl

/-! ## `setRng` -/

@[simp] theorem State.setRng_v (b : Byte) : (s.setRng b).v = s.v := rfl
@[simp] theorem State.setRng_i (b : Byte) : (s.setRng b).i = s.i := rfl
@[simp] theorem State.setRng_pc (b : Byte) : (s.setRng b).pc = s.pc := rfl
@[simp] theorem State.setRng_sp (b : Byte) : (s.setRng b).sp = s.sp := rfl
@[simp] theorem State.setRng_stack (b : Byte) : (s.setRng b).stack = s.stack := rfl
@[simp] theorem State.setRng_dt (b : Byte) : (s.setRng b).dt = s.dt := rfl
@[simp] theorem State.setRng_st (b : Byte) : (s.setRng b).st = s.st := rfl
@[simp] theorem State.setRng_mem (b : Byte) : (s.setRng b).mem = s.mem := rfl
@[simp] theorem State.setRng_fb (b : Byte) : (s.setRng b).fb = s.fb := rfl
@[simp] theorem State.setRng_rng (b : Byte) : (s.setRng b).rng = b := rfl
@[simp] theorem State.setRng_keys (b : Byte) : (s.setRng b).keys = s.keys := rfl
@[simp] theorem State.setRng_pending (b : Byte) : (s.setRng b).pending = s.pending := rfl
@[simp] theorem State.setRng_turn (b : Byte) : (s.setRng b).turn = s.turn := rfl
@[simp] theorem State.getV_setRng (b : Byte) (r : Reg) : (s.setRng b).getV r = s.getV r := rfl

/-! ## `loadBlock` -/

@[simp] theorem State.loadBlock_v (base count : Nat) : (s.loadBlock base count).v = Vector.ofFn fun k => if k.val < count then s.mem.read (base + k.val) else s.v[k] := rfl
@[simp] theorem State.loadBlock_i (base count : Nat) : (s.loadBlock base count).i = s.i := rfl
@[simp] theorem State.loadBlock_pc (base count : Nat) : (s.loadBlock base count).pc = s.pc := rfl
@[simp] theorem State.loadBlock_sp (base count : Nat) : (s.loadBlock base count).sp = s.sp := rfl
@[simp] theorem State.loadBlock_stack (base count : Nat) : (s.loadBlock base count).stack = s.stack := rfl
@[simp] theorem State.loadBlock_dt (base count : Nat) : (s.loadBlock base count).dt = s.dt := rfl
@[simp] theorem State.loadBlock_st (base count : Nat) : (s.loadBlock base count).st = s.st := rfl
@[simp] theorem State.loadBlock_mem (base count : Nat) : (s.loadBlock base count).mem = s.mem := rfl
@[simp] theorem State.loadBlock_fb (base count : Nat) : (s.loadBlock base count).fb = s.fb := rfl
@[simp] theorem State.loadBlock_rng (base count : Nat) : (s.loadBlock base count).rng = s.rng := rfl
@[simp] theorem State.loadBlock_keys (base count : Nat) : (s.loadBlock base count).keys = s.keys := rfl
@[simp] theorem State.loadBlock_pending (base count : Nat) : (s.loadBlock base count).pending = s.pending := rfl
@[simp] theorem State.loadBlock_turn (base count : Nat) : (s.loadBlock base count).turn = s.turn := rfl

/-! ## `tick` -/

@[simp] theorem State.tick_v : (s.tick).v = s.v := rfl
@[simp] theorem State.tick_i : (s.tick).i = s.i := rfl
@[simp] theorem State.tick_pc : (s.tick).pc = s.pc := rfl
@[simp] theorem State.tick_sp : (s.tick).sp = s.sp := rfl
@[simp] theorem State.tick_stack : (s.tick).stack = s.stack := rfl
@[simp] theorem State.tick_dt : (s.tick).dt = tickTimer s.dt := rfl
@[simp] theorem State.tick_st : (s.tick).st = tickTimer s.st := rfl
@[simp] theorem State.tick_mem : (s.tick).mem = s.mem := rfl
@[simp] theorem State.tick_fb : (s.tick).fb = s.fb := rfl
@[simp] theorem State.tick_rng : (s.tick).rng = s.rng := rfl
@[simp] theorem State.tick_keys : (s.tick).keys = s.keys := rfl
@[simp] theorem State.tick_pending : (s.tick).pending = s.pending := rfl
@[simp] theorem State.tick_turn : (s.tick).turn = s.turn := rfl
@[simp] theorem State.getV_tick (r : Reg) : (s.tick).getV r = s.getV r := rfl

/-! ## `ticks` -/

@[simp] theorem State.ticks_v (n : Nat) : (State.ticks n s).v = s.v := rfl
@[simp] theorem State.ticks_i (n : Nat) : (State.ticks n s).i = s.i := rfl
@[simp] theorem State.ticks_pc (n : Nat) : (State.ticks n s).pc = s.pc := rfl
@[simp] theorem State.ticks_sp (n : Nat) : (State.ticks n s).sp = s.sp := rfl
@[simp] theorem State.ticks_stack (n : Nat) : (State.ticks n s).stack = s.stack := rfl
@[simp] theorem State.ticks_dt (n : Nat) : (State.ticks n s).dt = timerAfter n s.dt := rfl
@[simp] theorem State.ticks_st (n : Nat) : (State.ticks n s).st = timerAfter n s.st := rfl
@[simp] theorem State.ticks_mem (n : Nat) : (State.ticks n s).mem = s.mem := rfl
@[simp] theorem State.ticks_fb (n : Nat) : (State.ticks n s).fb = s.fb := rfl
@[simp] theorem State.ticks_rng (n : Nat) : (State.ticks n s).rng = s.rng := rfl
@[simp] theorem State.ticks_keys (n : Nat) : (State.ticks n s).keys = s.keys := rfl
@[simp] theorem State.ticks_pending (n : Nat) : (State.ticks n s).pending = s.pending := rfl
@[simp] theorem State.ticks_turn (n : Nat) : (State.ticks n s).turn = s.turn := rfl
@[simp] theorem State.getV_ticks (n : Nat) (r : Reg) : (State.ticks n s).getV r = s.getV r := rfl

/-! ## `withKeys` -/

@[simp] theorem State.withKeys_v (k : KeypadSample) : (s.withKeys k).v = s.v := rfl
@[simp] theorem State.withKeys_i (k : KeypadSample) : (s.withKeys k).i = s.i := rfl
@[simp] theorem State.withKeys_pc (k : KeypadSample) : (s.withKeys k).pc = s.pc := rfl
@[simp] theorem State.withKeys_sp (k : KeypadSample) : (s.withKeys k).sp = s.sp := rfl
@[simp] theorem State.withKeys_stack (k : KeypadSample) : (s.withKeys k).stack = s.stack := rfl
@[simp] theorem State.withKeys_dt (k : KeypadSample) : (s.withKeys k).dt = s.dt := rfl
@[simp] theorem State.withKeys_st (k : KeypadSample) : (s.withKeys k).st = s.st := rfl
@[simp] theorem State.withKeys_mem (k : KeypadSample) : (s.withKeys k).mem = s.mem := rfl
@[simp] theorem State.withKeys_fb (k : KeypadSample) : (s.withKeys k).fb = s.fb := rfl
@[simp] theorem State.withKeys_rng (k : KeypadSample) : (s.withKeys k).rng = s.rng := rfl
@[simp] theorem State.withKeys_keys (k : KeypadSample) : (s.withKeys k).keys = k := rfl
@[simp] theorem State.withKeys_pending (k : KeypadSample) : (s.withKeys k).pending = s.pending := rfl
@[simp] theorem State.withKeys_turn (k : KeypadSample) : (s.withKeys k).turn = s.turn := rfl
@[simp] theorem State.getV_withKeys (k : KeypadSample) (r : Reg) : (s.withKeys k).getV r = s.getV r := rfl

/-! ## `beginTurn` -/

@[simp] theorem State.beginTurn_v : (s.beginTurn).v = s.v := rfl
@[simp] theorem State.beginTurn_i : (s.beginTurn).i = s.i := rfl
@[simp] theorem State.beginTurn_pc : (s.beginTurn).pc = s.pc := rfl
@[simp] theorem State.beginTurn_sp : (s.beginTurn).sp = s.sp := rfl
@[simp] theorem State.beginTurn_stack : (s.beginTurn).stack = s.stack := rfl
@[simp] theorem State.beginTurn_dt : (s.beginTurn).dt = timerAfter s.nextTurn.ticks s.dt := rfl
@[simp] theorem State.beginTurn_st : (s.beginTurn).st = timerAfter s.nextTurn.ticks s.st := rfl
@[simp] theorem State.beginTurn_mem : (s.beginTurn).mem = s.mem := rfl
@[simp] theorem State.beginTurn_fb : (s.beginTurn).fb = s.fb := rfl
@[simp] theorem State.beginTurn_rng : (s.beginTurn).rng = s.rng := rfl
@[simp] theorem State.beginTurn_keys : (s.beginTurn).keys = s.nextTurn.sample := rfl
@[simp] theorem State.beginTurn_pending : (s.beginTurn).pending = s.pending.tail := rfl
@[simp] theorem State.beginTurn_turn : (s.beginTurn).turn = s.turn + 1 := rfl
@[simp] theorem State.getV_beginTurn (r : Reg) : (s.beginTurn).getV r = s.getV r := rfl

/-! ## `given` -/

variable (h : Hardware) (k : KeypadSample)

@[simp] theorem Hardware.given_v : (h.given k).v = h.v := rfl
@[simp] theorem Hardware.given_i : (h.given k).i = h.i := rfl
@[simp] theorem Hardware.given_pc : (h.given k).pc = h.pc := rfl
@[simp] theorem Hardware.given_sp : (h.given k).sp = h.sp := rfl
@[simp] theorem Hardware.given_stack : (h.given k).stack = h.stack := rfl
@[simp] theorem Hardware.given_dt : (h.given k).dt = h.dt := rfl
@[simp] theorem Hardware.given_st : (h.given k).st = h.st := rfl
@[simp] theorem Hardware.given_mem : (h.given k).mem = h.mem := rfl
@[simp] theorem Hardware.given_fb : (h.given k).fb = h.fb := rfl
@[simp] theorem Hardware.given_rng : (h.given k).rng = h.rng := rfl
@[simp] theorem Hardware.given_keys : (h.given k).keys = k := rfl
@[simp] theorem Hardware.given_pending : (h.given k).pending = [] := rfl
@[simp] theorem Hardware.given_turn : (h.given k).turn = 0 := rfl
@[simp] theorem Hardware.given_toHardware : (h.given k).toHardware = h := rfl
@[simp] theorem State.getV_given (r : Reg) : (s.toHardware.given k).getV r = s.getV r := rfl

/-! ## `Hardware.tick`, `Hardware.ticks`, `Hardware.load` -/

@[simp] theorem Hardware.tick_v : h.tick.v = h.v := rfl
@[simp] theorem Hardware.tick_i : h.tick.i = h.i := rfl
@[simp] theorem Hardware.tick_pc : h.tick.pc = h.pc := rfl
@[simp] theorem Hardware.tick_sp : h.tick.sp = h.sp := rfl
@[simp] theorem Hardware.tick_stack : h.tick.stack = h.stack := rfl
@[simp] theorem Hardware.tick_dt : h.tick.dt = tickTimer h.dt := rfl
@[simp] theorem Hardware.tick_st : h.tick.st = tickTimer h.st := rfl
@[simp] theorem Hardware.tick_mem : h.tick.mem = h.mem := rfl
@[simp] theorem Hardware.tick_fb : h.tick.fb = h.fb := rfl
@[simp] theorem Hardware.tick_rng : h.tick.rng = h.rng := rfl
@[simp] theorem Hardware.ticks_v (n : Nat) : (h.ticks n).v = h.v := rfl
@[simp] theorem Hardware.ticks_i (n : Nat) : (h.ticks n).i = h.i := rfl
@[simp] theorem Hardware.ticks_pc (n : Nat) : (h.ticks n).pc = h.pc := rfl
@[simp] theorem Hardware.ticks_sp (n : Nat) : (h.ticks n).sp = h.sp := rfl
@[simp] theorem Hardware.ticks_stack (n : Nat) : (h.ticks n).stack = h.stack := rfl
@[simp] theorem Hardware.ticks_dt (n : Nat) : (h.ticks n).dt = timerAfter n h.dt := rfl
@[simp] theorem Hardware.ticks_st (n : Nat) : (h.ticks n).st = timerAfter n h.st := rfl
@[simp] theorem Hardware.ticks_mem (n : Nat) : (h.ticks n).mem = h.mem := rfl
@[simp] theorem Hardware.ticks_fb (n : Nat) : (h.ticks n).fb = h.fb := rfl
@[simp] theorem Hardware.ticks_rng (n : Nat) : (h.ticks n).rng = h.rng := rfl
@[simp] theorem Hardware.load_v (bytes : List Byte) : (h.load bytes).v = h.v := rfl
@[simp] theorem Hardware.load_i (bytes : List Byte) : (h.load bytes).i = h.i := rfl
@[simp] theorem Hardware.load_pc (bytes : List Byte) : (h.load bytes).pc = h.pc := rfl
@[simp] theorem Hardware.load_sp (bytes : List Byte) : (h.load bytes).sp = h.sp := rfl
@[simp] theorem Hardware.load_stack (bytes : List Byte) : (h.load bytes).stack = h.stack := rfl
@[simp] theorem Hardware.load_dt (bytes : List Byte) : (h.load bytes).dt = h.dt := rfl
@[simp] theorem Hardware.load_st (bytes : List Byte) : (h.load bytes).st = h.st := rfl
@[simp] theorem Hardware.load_mem (bytes : List Byte) : (h.load bytes).mem = h.mem.writeBytes 0x200 bytes := rfl
@[simp] theorem Hardware.load_fb (bytes : List Byte) : (h.load bytes).fb = h.fb := rfl
@[simp] theorem Hardware.load_rng (bytes : List Byte) : (h.load bytes).rng = h.rng := rfl
@[simp] theorem State.tick_toHardware : s.tick.toHardware = s.toHardware.tick := rfl
@[simp] theorem State.ticks_toHardware (n : Nat) : (State.ticks n s).toHardware = s.toHardware.ticks n := rfl
@[simp] theorem State.load_toHardware (bytes : List Byte) : (s.load bytes).toHardware = s.toHardware.load bytes := rfl
@[simp] theorem State.load_mem (bytes : List Byte) : (s.load bytes).mem = s.mem.writeBytes 0x200 bytes := rfl

/-! ## Operands

The widths are names of 16: these two turn a goal over `2 ^ Config.pcWidth` into one `omega` reads. -/

@[simp] theorem iWidth_eq : Config.iWidth = 16 := rfl

@[simp] theorem pcWidth_eq : Config.pcWidth = 16 := rfl

@[simp] theorem addrOperand_toNat (addr : Addr12) : (addrOperand Config.pcWidth addr).toNat = addr.toNat := by
  have := addr.isLt
  simp [addrOperand]; omega

@[simp] theorem State.wideV_toNat (x : Reg) : (s.wideV Config.pcWidth x).toNat = (s.getV x).toNat := by
  have := (s.getV x).isLt
  simp [State.wideV]; omega

/-! ## Registers -/

theorem State.getV_setV (x r : Reg) (b : Byte) :
    (s.setV x b).getV r = if r = x then b else s.getV r := by
  by_cases h : r = x
  · subst h; simp [State.getV, State.setV]
  · have : x.toNat ≠ r.toNat := fun e => h (BitVec.eq_of_toNat_eq e.symm)
    simp [State.getV, State.setV, this, h]

@[simp] theorem State.getV_setV_same (x : Reg) (b : Byte) : (s.setV x b).getV x = b := by
  simp [State.getV_setV]

theorem State.getV_setV_ne {x r : Reg} (b : Byte) (h : r ≠ x) : (s.setV x b).getV r = s.getV r := by
  simp [State.getV_setV, h]

theorem State.getV_setFlag (f : Bool) (r : Reg) :
    (s.setFlag f).getV r = if r = 0xF#4 then flagByte f else s.getV r := State.getV_setV s _ r _

theorem State.getV_loadBlock (base count : Nat) (r : Reg) :
    (s.loadBlock base count).getV r =
      if r.toNat < count then s.mem.read (base + r.toNat) else s.getV r := by
  simp [State.getV, State.loadBlock]

/-! ## Two writes: `writeResultAndFlag` (rule R140) -/

theorem State.getV_writeResultAndFlag_flagLast (x : Reg) (r : Byte) (f : Bool) (q : Reg) :
    (State.writeResultAndFlag true s x r f).getV q =
      if q = 0xF#4 then flagByte f else if q = x then r else s.getV q := by
  simp [State.writeResultAndFlag, State.getV_setFlag, State.getV_setV]

theorem State.getV_writeResultAndFlag_resultLast (x : Reg) (r : Byte) (f : Bool) (q : Reg) :
    (State.writeResultAndFlag false s x r f).getV q =
      if q = x then r else if q = 0xF#4 then flagByte f else s.getV q := by
  simp [State.writeResultAndFlag, State.getV_setFlag, State.getV_setV]

/-- The two writes change nothing but general registers. -/
theorem State.writeResultAndFlag_others (l : Bool) (x : Reg) (r : Byte) (f : Bool) :
    State.writeResultAndFlag l s x r f =
      { s with v := (State.writeResultAndFlag l s x r f).v } := by
  cases l <;> rfl

/-! ## Call stack (rules R26, R27) -/

theorem State.push_of_lt (w : Word) (h : s.sp.val < 16) :
    s.push w = some { s with stack := s.stack.set s.sp.val w h, sp := ⟨s.sp.val + 1, Nat.succ_lt_succ h⟩ } := by
  simp [State.push, h]

theorem State.push_of_full (w : Word) (h : s.sp.val = 16) : s.push w = none := by
  simp [State.push, h]

theorem State.pop_of_pos (h : s.sp.val ≠ 0) :
    s.pop = some (s.stack[s.sp.val - 1], { s with sp := ⟨s.sp.val - 1, by omega⟩ }) := by
  simp [State.pop, h]

theorem State.pop_of_empty (h : s.sp.val = 0) : s.pop = none := by
  simp [State.pop, h]

end Sys2Proof.Machine
end

