-- ==== Sys2Proof/Laws/Step.lean ====
section
/-! SUPPORT. What fetching, decoding and the key guard answer, and the three ways an instruction cycle goes. -/

namespace Sys2Proof.Machine

/-! ## Fetch and decode (rules R101, R102) -/

theorem State.canFetch_iff (s : State) : s.canFetch = true ↔ s.pc.toNat ≤ 0xFFE := by
  simp [State.canFetch, Config.memSize]; omega

theorem State.fetchInstr_outside {s : State} (h : 0xFFE < s.pc.toNat) :
    s.fetchInstr = .error (.memoryFault s.pc.toNat) := by
  have : s.canFetch = false := by
    rw [Bool.eq_false_iff]; exact fun e => absurd (s.canFetch_iff.1 e) (by omega)
  simp [State.fetchInstr, this]

theorem State.fetchInstr_decoded {s : State} {i : Instr} (h : s.pc.toNat ≤ 0xFFE)
    (hd : decode s.fetchWord = .ok i) : s.fetchInstr = .ok i := by
  simp [State.fetchInstr, s.canFetch_iff.2 h, hd]

theorem State.fetchInstr_unknown {s : State} {e : DecodeError} (h : s.pc.toNat ≤ 0xFFE)
    (hd : decode s.fetchWord = .error e) : s.fetchInstr = .error (.unknownInstruction s.fetchWord) := by
  simp [State.fetchInstr, s.canFetch_iff.2 h, hd]

/-- The ways an instruction cycle goes, in the order of rule R217: a fetch outside memory, a word of no
instruction, or the instruction's meaning. -/
theorem cycle_cases (s : State) :
    (0xFFE < s.pc.toNat ∧ cycle s = .fault (.memoryFault s.pc.toNat)) ∨
    (s.pc.toNat ≤ 0xFFE ∧ (∃ e, decode s.fetchWord = .error e) ∧
      cycle s = .fault (.unknownInstruction s.fetchWord)) ∨
    (s.pc.toNat ≤ 0xFFE ∧ ∃ i, decode s.fetchWord = .ok i ∧ cycle s = exec i s) := by
  rcases Nat.lt_or_ge 0xFFE s.pc.toNat with h | h
  · exact .inl ⟨h, by simp [cycle, State.fetchInstr_outside h, raise]⟩
  · cases hd : decode s.fetchWord with
    | error e => exact .inr (.inl ⟨h, ⟨e, rfl⟩, by simp [cycle, State.fetchInstr_unknown h hd, raise]⟩)
    | ok i => exact .inr (.inr ⟨h, i, rfl, by simp [cycle, State.fetchInstr_decoded h hd]⟩)

/-! ## The key guard (rule R214) -/

theorem State.guardKey_of_key {σ : Type} {s : State} {x : Reg} (go : Byte → Out σ)
    (h : (s.getV x).toNat ≤ 15) : s.guardKey x go = go (s.getV x) := by
  have : (s.getV x).toNat < 16 := by omega
  simp [State.guardKey, Config.numKeys, this]

theorem State.guardKey_of_no_key {σ : Type} {s : State} {x : Reg} (go : Byte → Out σ)
    (h : 15 < (s.getV x).toNat) : s.guardKey x go = .fault (.keyIndexFault (s.getV x)) := by
  have : ¬(s.getV x).toNat < 16 := by omega
  simp [State.guardKey, Config.numKeys, this, raise]

/-! ## The host's turn (log entries 2 and 3) -/

/-- What the host's turn leaves as it was: all an instruction can read but the timers and the sample. -/
theorem State.beginTurn_others (s : State) :
    s.beginTurn.v = s.v ∧ s.beginTurn.i = s.i ∧ s.beginTurn.pc = s.pc ∧ s.beginTurn.sp = s.sp ∧
      s.beginTurn.stack = s.stack ∧ s.beginTurn.mem = s.mem ∧ s.beginTurn.fb = s.fb ∧
      s.beginTurn.rng = s.rng :=
  ⟨rfl, rfl, rfl, rfl, rfl, rfl, rfl, rfl⟩

theorem State.nextTurn_of_announced {s : State} {t : HostTurn} {rest : List HostTurn}
    (h : s.pending = t :: rest) : s.nextTurn = t := by simp [State.nextTurn, h]

theorem State.nextTurn_of_free {s : State} (h : s.pending = []) : s.nextTurn = Config.freeTurn s.turn := by
  simp [State.nextTurn, h]

end Sys2Proof.Machine
end

