-- ==== Sys2Proof/Tests/Slice0.lean ====
section
/-! SUPPORT. Small tests, one step each, with results from the spec's worked examples (S) and its vectors (T) in
95_test_vectors.md; the well-formedness smoke test; a witness for every statement that has hypotheses. -/

namespace Sys2Proof.Tests

open Sys2Proof Sys2Proof.Machine

/-! ## Builders -/

/-- The reset state with some registers set, and `I`. -/
def withRegs (l : List (Reg × Byte)) (i : Word := 0) : State :=
  (l.foldl (fun s p => s.setV p.1 p.2) State.reset).setI i

/-- The reset state with a keypad sample. -/
def withSample (l : List (Reg × Byte)) (down : BitVec 16) (last : Option (BitVec 4)) : State :=
  { withRegs l with keys := ⟨down, last⟩ }

/-- Bytes stored from an address. -/
def storing (base : Nat) (bs : List Byte) (s : State) : State := s.setMem (s.mem.writeBytes base bs)

/-- Cells lit. -/
def lighting (cs : List (Nat × Nat)) (s : State) : State :=
  s.setFb (cs.foldl (fun f c => setCell f c.1 c.2 0xFF#8) s.fb)

/-- The word placed at `pc`, and the next turn announced: no tick, the keypad sample the state holds. -/
def ready (w : Nat) (s : State) : State := { s.withFetchWord 16 w with pending := [⟨0, s.keys⟩] }

/-- What the next state shows, or nothing where there is none. -/
def seen {α : Type} (o : Out State) (f : State → α) : Option α :=
  match o with
  | .next t => some (f t)
  | _ => none

/-- The fault an outcome is. -/
def faultOf {σ : Type} : Out σ → Option Fault
  | .fault f => some f
  | _ => none

/-- What one step of a word shows. -/
def after {α : Type} (w : Nat) (s : State) (f : State → α) : Option α := seen (step (ready w s)) f

/-- The fault one step of a word raises. -/
def faulting (w : Nat) (s : State) : Option Fault := faultOf (step (ready w s))

/-! ## Well-formedness -/

/-- Illegal words of families 0, 5, 8, 9, E, F (T2 to T8): the check refuses each. -/
theorem test_illegal_words_refused :
    [0x0000, 0x01E0, 0x00E1, 0x00EF, 0x0123, 0x0FFF, 0x5121, 0x9AB7, 0x8018, 0x8019, 0x801F,
      0xE09F, 0xE0A0, 0xE000, 0xE19D, 0xF000, 0xF00B, 0xF016, 0xF0FF].map legalWord = List.replicate 19 false := by
  decide

/-- One legal word of each family with free fields: the check takes it. -/
theorem test_legal_words_taken :
    [0x00E0, 0x00EE, 0x1FFF, 0x5AB0, 0x8ABE, 0x9AB0, 0xDABF, 0xEF9E, 0xEFA1, 0xFF65].map legalWord =
      List.replicate 10 true := by decide

/-- A program of 3585 bytes may not be loaded, one of 3584 may (S9). -/
theorem test_program_length :
    loadable (List.replicate 3585 0#8) = false ∧ loadable (List.replicate 3584 0#8) = true := by
  simp only [loadable, List.length_replicate]; decide

/-- The rows of the opcode map are pairwise disjoint: two rows differ in a bit both masks cover (rule R84). -/
theorem test_rows_disjoint :
    opcodeRows.Pairwise (fun r q => r.pattern &&& (r.mask &&& q.mask) ≠ q.pattern &&& (r.mask &&& q.mask)) := by
  decide

/-! ## Decoding, by words written out from the encoding column of rule R86 -/

/-- Fields of a word by rule R10, on `D125`. -/
theorem test_fields :
    (opField 0xD125, xField 0xD125, yField 0xD125, nField 0xD125, kkField 0xD125, addrField 0xD125) =
      (0xD, 0x1, 0x2, 0x5, 0x25, 0x125) := by decide

theorem test_decode_control :
    decode 0b0000000011101110 = .ok .ret ∧ decode 0b0001001000110100 = .ok (.jp 0x234) ∧
    decode 0b0010001101000101 = .ok (.call 0x345) ∧ decode 0b0011001100101010 = .ok (.seByte 3 0x2A) ∧
    decode 0b0100001100101011 = .ok (.sneByte 3 0x2B) ∧ decode 0b0101000100100000 = .ok (.seReg 1 2) ∧
    decode 0b1001000100100000 = .ok (.sneReg 1 2) ∧ decode 0b1011001100000000 = .ok (.jpV0 0x300) := by
  refine ⟨rfl, rfl, rfl, rfl, rfl, rfl, rfl, rfl⟩

theorem test_decode_alu :
    decode 0b0110101000111100 = .ok (.ldByte 0xA 0x3C) ∧ decode 0b0111000011111111 = .ok (.addByte 0 0xFF) ∧
    decode 0b1000000100100000 = .ok (.ldReg 1 2) ∧ decode 0b1000000100100001 = .ok (.orReg 1 2) ∧
    decode 0b1000000100100010 = .ok (.andReg 1 2) ∧ decode 0b1000000100100011 = .ok (.xorReg 1 2) ∧
    decode 0b1000000100100100 = .ok (.addReg 1 2) ∧ decode 0b1000000100100101 = .ok (.subReg 1 2) ∧
    decode 0b1000000100100110 = .ok (.shr 1 2) ∧ decode 0b1000000100100111 = .ok (.subnReg 1 2) ∧
    decode 0b1000000100101110 = .ok (.shl 1 2) := by
  refine ⟨rfl, rfl, rfl, rfl, rfl, rfl, rfl, rfl, rfl, rfl, rfl⟩

theorem test_decode_index_memory :
    decode 0b1010000100100011 = .ok (.ldI 0x123) ∧ decode 0b1111001000011110 = .ok (.addI 2) ∧
    decode 0b1111001100101001 = .ok (.ldF 3) ∧ decode 0b1111000000110011 = .ok (.ldB 0) ∧
    decode 0b1111111101010101 = .ok (.ldIVx 0xF) ∧ decode 0b1111001001100101 = .ok (.ldVxI 2) := by
  refine ⟨rfl, rfl, rfl, rfl, rfl, rfl⟩

theorem test_decode_display_keys_timers_random :
    decode 0b0000000011100000 = .ok .cls ∧ decode 0b1101000100100101 = .ok (.drw 1 2 5) ∧
    decode 0b1110001010011110 = .ok (.skp 2) ∧ decode 0b1110001010100001 = .ok (.sknp 2) ∧
    decode 0b1111010100000111 = .ok (.ldVxDt 5) ∧ decode 0b1111001100001010 = .ok (.ldVxK 3) ∧
    decode 0b1111010100010101 = .ok (.ldDtVx 5) ∧ decode 0b1111010100011000 = .ok (.ldStVx 5) ∧
    decode 0b1100000100001111 = .ok (.rnd 1 0x0F) := by
  refine ⟨rfl, rfl, rfl, rfl, rfl, rfl, rfl, rfl, rfl⟩

/-- The bytes of a word are big-endian, and a string of one byte holds no instruction (S10, rule R80). -/
theorem test_decode_bytes :
    decodeBytes [0x12, 0x34, 0x56] = .ok (.jp 0x234, [0x56]) ∧ decodeBytes [0x12] = .error .truncated ∧
    tableBytes 16 0x1234 = [0x12, 0x34] ∧ decodeTableWord 16 0xD125 = some (.drw 1 2 5) ∧
    decodeTableWord 16 0x5121 = none := by refine ⟨rfl, rfl, rfl, rfl, rfl⟩

/-! ## Fetch and decode in a step -/

/-- T1: reset with nothing loaded. -/
theorem test_zero_word_faults : faultOf (step State.reset) = some (.unknownInstruction 0x0000) := by decide

/-- T2, T4. -/
theorem test_loose_words_fault :
    faulting 0x01E0 State.reset = some (.unknownInstruction 0x01E0) ∧
    faulting 0x5121 State.reset = some (.unknownInstruction 0x5121) := by decide

/-- T9: an instruction at the top of memory runs, the next fetch faults with 0x1000. -/
theorem test_top_of_memory :
    after 0x6001 (State.reset.setPc 0xFFE) (fun t => (t.getV 0, t.pc)) = some (0x01, 0x1000) ∧
    faultOf (step (State.reset.setPc 0x1000)) = some (.memoryFault 0x1000) ∧
    faultOf (step (State.reset.setPc 0xFFF)) = some (.memoryFault 0xFFF) := by decide

/-- T11: an odd `pc`. -/
theorem test_odd_pc : after 0x6A3C (State.reset.setPc 0x201) (fun t => (t.getV 0xA, t.pc)) = some (0x3C, 0x203) := by
  decide

/-! ## Control flow -/

/-- S11. -/
theorem test_ret :
    after 0x00EE { State.reset with sp := 2, stack := State.reset.stack.set 1 0x0456 }
      (fun t => (t.sp, t.pc, t.stack[1])) = some (1, 0x458, 0x456) := by decide

/-- T25. -/
theorem test_ret_empty : faulting 0x00EE State.reset = some .stackUnderflow := by decide

/-- T20, T21. -/
theorem test_jp : after 0x1200 State.reset (·.pc) = some 0x200 ∧ after 0x1FFF State.reset (·.pc) = some 0xFFF := by
  decide

/-- S3, its first step. -/
theorem test_call : after 0x2300 State.reset (fun t => (t.stack[0], t.sp, t.pc)) = some (0x200, 1, 0x300) := by decide

/-- T23, T24. -/
theorem test_call_sixteenth_and_full :
    after 0x2345 { State.reset with sp := 15 } (fun t => (t.stack[15], t.sp, t.pc)) = some (0x200, 16, 0x345) ∧
    faulting 0x2345 { State.reset with sp := 16 } = some .stackOverflow := by decide

/-- S14. -/
theorem test_se_byte :
    after 0x332A (withRegs [(3, 0x2A)]) (·.pc) = some 0x204 ∧
    after 0x332B (withRegs [(3, 0x2A)]) (·.pc) = some 0x202 := by decide

/-- T34: `VF` as an operand. -/
theorem test_se_byte_vf : after 0x3F01 (withRegs [(0xF, 0x01)]) (·.pc) = some 0x204 := by decide

/-- T27. -/
theorem test_sne_byte :
    after 0x432A (withRegs [(3, 0x2A)]) (·.pc) = some 0x202 ∧
    after 0x432B (withRegs [(3, 0x2A)]) (·.pc) = some 0x204 := by decide

/-- T28, T29. -/
theorem test_se_reg :
    after 0x5120 (withRegs [(1, 7), (2, 7)]) (·.pc) = some 0x204 ∧
    after 0x5120 (withRegs [(1, 7), (2, 8)]) (·.pc) = some 0x202 := by decide

/-- T28, T29. -/
theorem test_sne_reg :
    after 0x9120 (withRegs [(1, 7), (2, 7)]) (·.pc) = some 0x202 ∧
    after 0x9120 (withRegs [(1, 7), (2, 8)]) (·.pc) = some 0x204 := by decide

/-- T32: no wrap at 12 bits. -/
theorem test_jp_v0_top : after 0xBFFF (withRegs [(0, 0xFF)]) (·.pc) = some 0x10FE := by decide

/-- T33: the offset is `V0`. -/
theorem test_jp_v0 : after 0xB300 (withRegs [(0, 0x02), (3, 0x80)]) (·.pc) = some 0x302 := by decide

/-! ## Load and ALU -/

/-- T40. -/
theorem test_ld_byte : after 0x6F5A State.reset (fun t => (t.getV 0xF, t.pc)) = some (0x5A, 0x202) := by decide

/-- T41, T42: the flag is left alone. -/
theorem test_add_byte :
    after 0x7001 (withRegs [(0, 0xFF), (0xF, 0x05)]) (fun t => (t.getV 0, t.getV 0xF)) = some (0x00, 0x05) ∧
    after 0x70FF (withRegs [(0, 0x05)]) (fun t => t.getV 0) = some 0x04 := by decide

/-- What an ALU word leaves in `V0` and `VF`. -/
def alu (w : Nat) (a b : Byte) (vf : Byte := 0) : Option (Byte × Byte) :=
  after w (withRegs [(0, a), (1, b), (0xF, vf)]) (fun t => (t.getV 0, t.getV 0xF))

/-- T43. -/
theorem test_ld_reg : alu 0x8010 0x12 0x55 0x01 = some (0x55, 0x01) := by decide

/-- T44. -/
theorem test_or : alu 0x8011 0xF0 0x0F 0x01 = some (0xFF, 0x01) := by decide

/-- T45, T77: also into `VF`. -/
theorem test_and :
    alu 0x8012 0xF0 0x3C 0x01 = some (0x30, 0x01) ∧
    after 0x8F12 (withRegs [(1, 0x0F), (0xF, 0x05)]) (fun t => t.getV 0xF) = some 0x05 := by decide

/-- T46, T47. -/
theorem test_xor : alu 0x8013 0xF0 0x3C 0x01 = some (0xCC, 0x01) ∧ alu 0x8003 0xA7 0 0x01 = some (0x00, 0x01) := by
  decide

/-- S4, T48 to T52. -/
theorem test_add_reg :
    alu 0x8014 0xFF 0x01 = some (0x00, 0x01) ∧ alu 0x8014 0x80 0x80 = some (0x00, 0x01) ∧
    alu 0x8014 0x7F 0x80 0x01 = some (0xFF, 0x00) ∧ alu 0x8004 0x81 0 = some (0x02, 0x01) := by decide

/-- T70, T71, T72: `VF` as destination and as source. -/
theorem test_add_reg_vf :
    after 0x8F14 (withRegs [(1, 0x01), (0xF, 0xFF)]) (fun t => t.getV 0xF) = some 0x01 ∧
    after 0x8F14 (withRegs [(1, 0x01), (0xF, 0x01)]) (fun t => t.getV 0xF) = some 0x00 ∧
    after 0x80F4 (withRegs [(0, 0x10), (0xF, 0x01)]) (fun t => (t.getV 0, t.getV 0xF)) = some (0x11, 0x00) := by
  decide

/-- The spec's own defaults for every parameter, with the seed of its programs (95_test_vectors.md). -/
def specDefaults : Parameters := { Config.parameters with seed := 0x01, rngStep := Config.lfsrStep }

/-- The other setting of the two Boolean parameters, and another font. -/
def otherSettings : Parameters :=
  { specDefaults with font := Vector.replicate 80 0xAA, fx65Inclusive := true, vfLast := false }

/-- T78, T70: the two settings of `VF_LAST`. -/
theorem test_add_reg_result_last :
    seen (execUnder otherSettings (.addReg 0xF 1) (withRegs [(1, 0x01), (0xF, 0xFF)])) (fun t => t.getV 0xF) =
      some 0x00 ∧
    seen (execUnder specDefaults (.addReg 0xF 1) (withRegs [(1, 0x01), (0xF, 0xFF)])) (fun t => t.getV 0xF) =
      some 0x01 := by decide

/-- T53, T55, T57. -/
theorem test_sub :
    alu 0x8015 0x05 0x07 0x01 = some (0xFE, 0x00) ∧ alu 0x8015 0x09 0x09 = some (0x00, 0x01) ∧
    alu 0x8015 0x80 0x7F = some (0x01, 0x01) := by decide

/-- T76. -/
theorem test_sub_vf : after 0x8F15 (withRegs [(1, 0x05), (0xF, 0x05)]) (fun t => t.getV 0xF) = some 0x01 := by decide

/-- T58, T59, T62: `V1` is not read. -/
theorem test_shr :
    alu 0x8016 0x05 0x33 = some (0x02, 0x01) ∧ alu 0x8016 0x80 0x33 0x01 = some (0x40, 0x00) ∧
    alu 0x8016 0x02 0xFF = some (0x01, 0x00) := by decide

/-- T73, T74. -/
theorem test_shr_vf :
    after 0x8F06 (withRegs [(0xF, 0x03)]) (fun t => t.getV 0xF) = some 0x01 ∧
    after 0x8F06 (withRegs [(0xF, 0x02)]) (fun t => t.getV 0xF) = some 0x00 := by decide

/-- S5, T63, T64, T65. -/
theorem test_subn :
    alu 0x8017 0x01 0x02 = some (0x01, 0x01) ∧ alu 0x8017 0x02 0x01 0x01 = some (0xFF, 0x00) ∧
    alu 0x8017 0x09 0x09 = some (0x00, 0x01) ∧ alu 0x8017 0x00 0xFF = some (0xFF, 0x01) := by decide

/-- T66, T68. -/
theorem test_shl :
    alu 0x801E 0xC1 0x33 = some (0x82, 0x01) ∧ alu 0x801E 0x7F 0x33 0x01 = some (0xFE, 0x00) := by decide

/-- T75. -/
theorem test_shl_vf : after 0x8F0E (withRegs [(0xF, 0x81)]) (fun t => t.getV 0xF) = some 0x01 := by decide

/-! ## Index and memory -/

/-- S2, T80. -/
theorem test_ld_i :
    after 0xA123 State.reset (fun t => (t.i, t.pc)) = some (0x123, 0x202) ∧
    after 0xA000 (withRegs [] 0xFFFF) (·.i) = some 0x0000 := by decide

/-- T82, T83. -/
theorem test_add_i :
    after 0xF21E (withRegs [(2, 0x01), (0xF, 0x05)] 0x0FFF) (fun t => (t.i, t.getV 0xF)) = some (0x1000, 0x05) ∧
    after 0xF21E (withRegs [(2, 0x02)] 0xFFFF) (·.i) = some 0x0001 := by decide

/-- S15, T84. -/
theorem test_ld_f :
    after 0xF329 (withRegs [(3, 0x0A)]) (·.i) = some 0x0032 ∧
    after 0xF329 (withRegs [(3, 0xFF)]) (·.i) = some 0x04FB := by decide

/-- The bytes at some addresses. -/
def bytesAt (l : List Nat) (t : State) : List Byte := l.map t.mem.read

/-- T86, T89. -/
theorem test_ld_b :
    after 0xF033 (withRegs [(0, 0xFF)] 0x300) (bytesAt [0x300, 0x301, 0x302]) = some [2, 5, 5] ∧
    after 0xF033 (withRegs [(0, 0x7B)] 0xFFD) (bytesAt [0xFFD, 0xFFE, 0xFFF]) = some [1, 2, 3] := by decide

/-- T90. -/
theorem test_ld_b_outside : faulting 0xF033 (withRegs [(0, 0x7B)] 0xFFE) = some (.memoryFault 0x1000) := by decide

/-- S13, T91. -/
theorem test_ld_i_vx :
    after 0xF255 (withRegs [(0, 0x11), (1, 0x22), (2, 0x33), (3, 0x44)] 0x400)
      (fun t => (bytesAt [0x400, 0x401, 0x402, 0x403] t, t.i)) = some ([0x11, 0x22, 0x33, 0x00], 0x400) ∧
    after 0xF055 (withRegs [(0, 0x9A)] 0xFFF) (bytesAt [0xFFF]) = some [0x9A] := by decide

/-- T92, T94. -/
theorem test_ld_i_vx_outside :
    faulting 0xF155 (withRegs [] 0xFFF) = some (.memoryFault 0x1000) ∧
    faulting 0xF055 (withRegs [] 0xFFFF) = some (.memoryFault 0xFFFF) := by decide

/-- S12, T95, T97: the bound is exclusive. -/
theorem test_ld_vx_i :
    after 0xF265 (storing 0x400 [0xAA, 0xBB, 0xCC] (withRegs [] 0x400))
      (fun t => (t.getV 0, t.getV 1, t.getV 2, t.i)) = some (0xAA, 0xBB, 0x00, 0x400) ∧
    after 0xF065 (withRegs [(0, 0x07)] 0x1234) (fun t => (t.getV 0, t.pc)) = some (0x07, 0x202) ∧
    after 0xF165 (storing 0xFFF [0x77] (withRegs [] 0xFFF)) (fun t => (t.getV 0, t.getV 1)) = some (0x77, 0x00) := by
  decide

/-- T98, T99, T100: the fault, and the other setting of `FX65_INCLUSIVE`. -/
theorem test_ld_vx_i_outside_and_inclusive :
    faulting 0xF265 (withRegs [] 0xFFF) = some (.memoryFault 0x1000) ∧
    seen (execUnder otherSettings (.ldVxI 2) (storing 0x400 [0xAA, 0xBB, 0xCC] (withRegs [] 0x400)))
      (fun t => (t.getV 0, t.getV 1, t.getV 2)) = some (0xAA, 0xBB, 0xCC) ∧
    faultOf (execUnder otherSettings (.ldVxI 1) (withRegs [] 0xFFF)) = some (.memoryFault 0x1000) := by decide

/-! ## Display -/

/-- The cells at some coordinates. -/
def cellsAt (l : List (Nat × Nat)) (t : State) : List Byte := l.map fun c => getCell t.fb c.1 c.2

/-- T110. -/
theorem test_cls :
    after 0x00E0 (lighting [(0, 0), (63, 31)] (withRegs [(0xF, 0x01)]))
      (fun t => (cellsAt [(0, 0), (63, 31)] t, t.getV 0xF)) = some ([0x00, 0x00], 0x01) := by decide

/-- T113, T115: wrapping at the right edge, and coordinates modulo 64 and 32. -/
theorem test_drw_wraps :
    after 0xD011 (storing 0x300 [0xFF] (withRegs [(0, 62)] 0x300))
      (fun t => (cellsAt [(61, 0), (62, 0), (63, 0), (0, 0), (5, 0), (6, 0)] t, t.getV 0xF)) =
      some ([0x00, 0xFF, 0xFF, 0xFF, 0xFF, 0x00], 0x00) ∧
    after 0xD011 (storing 0x300 [0x80] (withRegs [(0, 70), (1, 41)] 0x300)) (cellsAt [(6, 9), (7, 9)]) =
      some [0xFF, 0x00] := by decide

/-- T121, T120: a lit cell under a set bit collides, a lit cell under a clear bit does not. -/
theorem test_drw_collision :
    after 0xD011 (lighting [(1, 0)] (storing 0x300 [0xC0] (withRegs [] 0x300)))
      (fun t => (cellsAt [(0, 0), (1, 0)] t, t.getV 0xF)) = some ([0xFF, 0x00], 0x01) ∧
    after 0xD011 (lighting [(0, 0)] (storing 0x300 [0x40] (withRegs [] 0x300)))
      (fun t => (cellsAt [(0, 0), (1, 0)] t, t.getV 0xF)) = some ([0xFF, 0xFF], 0x00) := by decide

/-! ## Keypad, timers, random -/

/-- T130, T131: `KeyLast` is not consulted. -/
theorem test_skp :
    after 0xE29E (withSample [(2, 5)] 0x0020 none) (·.pc) = some 0x204 ∧
    after 0xE29E (withSample [(2, 5)] 0x0000 (some 5)) (·.pc) = some 0x202 := by decide

/-- T133, T135: key 15, and a value above 15 is not masked. -/
theorem test_skp_edges :
    after 0xE29E (withSample [(2, 0x0F)] 0x8000 none) (·.pc) = some 0x204 ∧
    faulting 0xE29E (withSample [(2, 0x13)] 0x0008 none) = some (.keyIndexFault 0x13) := by decide

/-- T132. -/
theorem test_sknp :
    after 0xE2A1 (withSample [(2, 5)] 0x0020 none) (·.pc) = some 0x202 ∧
    after 0xE2A1 (withSample [(2, 5)] 0x0000 none) (·.pc) = some 0x204 := by decide

/-- T134. -/
theorem test_sknp_outside : faulting 0xE2A1 (withRegs [(2, 0x10)]) = some (.keyIndexFault 0x10) := by decide

/-- S8, T136: a reported key is taken, also into `VF`. -/
theorem test_ld_vx_k :
    after 0xF30A (withSample [] 0x0000 (some 7)) (fun t => (t.getV 3, t.pc)) = some (0x07, 0x202) ∧
    after 0xFF0A (withSample [(0xF, 9)] 0x0000 (some 0)) (fun t => (t.getV 0xF, t.pc)) = some (0x00, 0x202) := by
  decide

/-- T137: no key reported while every key is held; nothing moves. -/
theorem test_ld_vx_k_waits :
    after 0xF30A (withSample [(3, 9)] 0xFFFF none) (fun t => (t.getV 3, t.pc)) = some (0x09, 0x200) := by decide

/-- What a step on the ten components shows, with its outcome. -/
def stepped {α : Type} (o : Host.Outcome (Hardware × StepOutcome) Fault Refusal) (f : Hardware → α) :
    Option (α × StepOutcome) :=
  match o with
  | .next (h, r) => some (f h, r)
  | _ => none

/-- T137, T136: the outcome tells a wait from an executed instruction. -/
theorem test_ld_vx_k_outcome :
    stepped ((State.reset.withFetchWord 16 0xF30A).stepWith ⟨0xFFFF, none⟩) (·.pc) = some (0x200, .awaitingKey) ∧
    stepped ((State.reset.withFetchWord 16 0xFF0A).stepWith ⟨0, some 0⟩) (·.pc) = some (0x202, .next) := by decide

/-- T139. -/
theorem test_ld_vx_dt : after 0xF507 (State.reset.setDt 0x2A) (fun t => (t.getV 5, t.dt)) = some (0x2A, 0x2A) := by
  decide

/-- T140. -/
theorem test_ld_dt_vx : after 0xF515 (withRegs [(5, 0x3C)]) (fun t => (t.dt, t.st)) = some (0x3C, 0x00) := by decide

/-- T141. -/
theorem test_ld_st_vx : after 0xF518 (withRegs [(5, 0x08)]) (fun t => (t.dt, t.st)) = some (0x00, 0x08) := by decide

/-- T152, for any generator: with `kk = 0` the result is 0 (rule R196). -/
theorem test_rnd_zero_mask :
    ∃ t, exec (.rnd 1 0x00) State.reset = .next t ∧ t.getV 1 = 0x00 ∧ t.rng = Config.rngStep Config.seed :=
  ⟨_, rfl, by simp [State.getV, State.advance, State.setPc, State.setV], rfl⟩

/-- T151, under the spec's default generator. -/
theorem test_rnd_default :
    seen (execUnder specDefaults (.rnd 1 0x0F) (State.reset.setRng 0x01)) (fun t => (t.rng, t.getV 1, t.pc)) =
      some (0xB8, 0x08, 0x202) := by decide

/-- A construction with a seed and a font (rule R40): font, zeroes above it, seed. -/
theorem test_reset_under :
    bytesAt [0x000, 0x04F, 0x050] (State.resetUnder otherSettings) = [0xAA, 0xAA, 0x00] ∧
    bytesAt [0x000, 0x04F, 0x050] (State.resetUnder specDefaults) = [0xF0, 0x80, 0x00] ∧
    (State.resetUnder specDefaults).rng = 0x01 := by
  simp [bytesAt, State.resetUnder, Hardware.resetUnder, Hardware.reset, Memory.read_writeBytes, otherSettings,
    specDefaults, Config.parameters, Config.font, Config.fontBytes, Config.fontGlyphs,
    Config.fontGlyphBytes, Memory.unlisted, Memory.read]

/-! ## The host's operations -/

/-- S7, T142, T143. -/
theorem test_tick :
    (let t := ((State.reset.setDt 0x02).setSt 0x01).tick; (t.dt, t.st)) = (0x01, 0x00) ∧
    (State.reset.tick.dt, State.reset.tick.st) = (0x00, 0x00) ∧
    (let t := ((State.reset.setDt 0xFF).setSt 0x01).ticks 2; (t.dt, t.st)) = (0xFD, 0x00) := by decide

/-- An announced turn: its ticks come before the instruction (rule R221). -/
theorem test_turn_ticks_first :
    seen (step { (State.reset.setDt 0x05).withFetchWord 16 0xF507 with pending := [⟨2, ⟨0, none⟩⟩] })
      (fun t => (t.getV 5, t.dt, t.pending)) = some (0x03, 0x03, []) := by decide

/-- P4's program as `load` leaves it (rule R243). -/
theorem test_load :
    bytesAt [0x1FF, 0x200, 0x201, 0x202, 0x203] (State.reset.load [0x60, 0x60, 0x61]) = [0x00, 0x60, 0x60, 0x61, 0x00] := by
  decide

/-- The format of the dump of rule R229: `V<h>: 0x<hh>`, `PC: 0x<hhhh>`, `I : 0x<hhhh>`, `SP: 0x<hh>`; a digit may
be a capital beside one that is not. -/
theorem test_dump :
    ((dumpLines (fun _ _ => true) (withRegs [(0xB, 0xC4)] 0x32A).toHardware)[11]? = some "VB: 0xC4".toList) ∧
    ((dumpLines (fun _ c => c = 1) (withRegs [(0xB, 0xC4)] 0x32A).toHardware)[11]? = some "VB: 0xc4".toList) ∧
    ((dumpLines (fun _ _ => false) (withRegs [(0xB, 0xC4)] 0x32A).toHardware)[16]? = some "PC: 0x0200".toList) ∧
    ((dumpLines (fun _ _ => true) (withRegs [(0xB, 0xC4)] 0x32A).toHardware)[17]? = some "I : 0x032A".toList) ∧
    ((dumpLines (fun _ _ => true) (withRegs [(0xB, 0xC4)] 0x32A).toHardware)[18]? = some "SP: 0x00".toList) := by
  decide

/-- The end of a run (rule R109, log entry 27): a jump to itself is a good one, a fault a bad one, and `00E0` none. -/
theorem test_ending :
    (Hardware.reset.load [0x12, 0x00]).ending specDefaults = some .selfJump ∧ RunEnd.successful .selfJump = true ∧
    (Hardware.reset.load [0x00, 0xEE]).ending specDefaults = some (.faulted .stackUnderflow) ∧
    RunEnd.successful (.faulted .stackUnderflow) = false ∧
    (Hardware.reset.load [0x00, 0xE0]).ending specDefaults = none := by decide

/-- A run of one turn comes to its end at 0x202. -/
theorem test_run :
    (fun r : Hardware × Option RunEnd => (r.1.v[0], r.1.pc, r.2))
      ((Hardware.reset.load [0x60, 0x01, 0x12, 0x02]).run specDefaults [⟨0, ⟨0, none⟩⟩]) = (0x01, 0x202, some .selfJump) := by decide

/-! ## Witnesses: states and operands that meet the hypotheses of each statement that has some -/

/-- A state with the whole stack free, `sp` given. -/
def atDepth (sp : Fin 17) : State := { State.reset with sp := sp }

theorem witness_EncodeOfDecodeIsTheWord : decode 0xD125 = .ok (.drw 1 2 5) := rfl

/-- A word one row covers, and a word no row covers. -/
theorem witness_DecodeFindsTheOneRowThatCovers :
    (∃ r ∈ opcodeRows, (0x9FF0 : Word) &&& r.mask = r.pattern) ∧ ∀ r ∈ opcodeRows, (0x9FF1 : Word) &&& r.mask ≠ r.pattern := by
  decide

/-- The last address that can be fetched at, and the next. -/
theorem witness_FetchOutsideMemoryFaults :
    (State.reset.setPc 0xFFF).pc.toNat > 0xFFE ∧ (State.reset.setPc 0xFFE).pc.toNat ≤ 0xFFE := by decide

theorem witness_StepRunsTheDecodedInstruction :
    (ready 0x1234 State.reset).pc.toNat ≤ 0xFFE ∧ decode (ready 0x1234 State.reset).fetchWord = .ok (.jp 0x234) :=
  ⟨by decide, rfl⟩

/-- A turn announced, and none. -/
theorem witness_HostTurnChangesTimersAndSampleOnly :
    (ready 0x1234 State.reset).pending = ⟨0, State.reset.keys⟩ :: [] ∧ State.reset.pending = [] := ⟨rfl, rfl⟩

/-- A word a row covers, and one no row covers, at an address that can be fetched at. -/
theorem witness_StepRunsTheRowThatCoversOrFaults :
    (ready 0x9FF0 State.reset).pc.toNat ≤ 0xFFE ∧
    (∃ r ∈ opcodeRows, (ready 0x9FF0 State.reset).fetchWord &&& r.mask = r.pattern) ∧
    State.reset.pc.toNat ≤ 0xFFE ∧ ∀ r ∈ opcodeRows, State.reset.fetchWord &&& r.mask ≠ r.pattern := by decide

/-- A step that faults, whatever the free turn, and one that does not. -/
theorem witness_StepFaultsExactlyWhereTheTableSays :
    step State.reset = .fault (.unknownInstruction 0) ∧ faultCondition State.reset.beginTurn = some (.unknownInstruction 0) ∧
    Safe (step (ready 0x1234 State.reset)) ∧ faultCondition (ready 0x1234 State.reset).beginTurn = none :=
  ⟨rfl, by decide, ⟨_, rfl⟩, by decide⟩

/-- A fault of each place: the fetch, the decoder, the handler. -/
theorem witness_FaultIsRaisedAgain :
    step (State.reset.setPc 0xFFF) = .fault (.memoryFault 0xFFF) ∧ step State.reset = .fault (.unknownInstruction 0) ∧
    step (ready 0x00EE State.reset) = .fault .stackUnderflow := ⟨rfl, rfl, rfl⟩

/-- A step with each of the three outcomes. -/
theorem witness_StepEndsInOneOfThreeOutcomes :
    (∃ t, (ready 0x1234 State.reset).stepWith ⟨0, none⟩ = .next (t, .next)) ∧
    (∃ t, (ready 0xF30A State.reset).stepWith ⟨0, none⟩ = .next (t, .awaitingKey)) ∧
    (∃ t, (ready 0x00EE State.reset).stepWith ⟨0, none⟩ = .next (t, .fault .stackUnderflow)) :=
  ⟨⟨_, rfl⟩, ⟨_, rfl⟩, ⟨_, rfl⟩⟩

/-- A step that stores. -/
theorem witness_StepKeepsMemoryCanonical :
    (ready 0xF033 (withRegs [(0, 0x7B)] 0xFFD)).MemoryCanonical ∧
    Safe (step (ready 0xF033 (withRegs [(0, 0x7B)] 0xFFD))) := ⟨by decide, _, rfl⟩

/-- A step that draws over a lit cell. -/
theorem witness_StepKeepsCellsOnOrOff :
    (ready 0xD011 (lighting [(1, 0)] (withRegs [] 0x300))).CellsOnOrOff ∧
    Safe (step (ready 0xD011 (lighting [(1, 0)] (withRegs [] 0x300)))) :=
  ⟨cellsLegal_setCell 1 0 cellsLegal_clearBuffer (.inr rfl), _, rfl⟩

/-- The jump that reaches the bound, and a call from the last address that can be fetched at. -/
theorem witness_StepKeepsPcInRange :
    (ready 0xBFFF (withRegs [(0, 0xFF)])).PcInRange ∧ Safe (step (ready 0xBFFF (withRegs [(0, 0xFF)]))) ∧
    (ready 0x2345 (State.reset.setPc 0xFFE)).PcInRange ∧ Safe (step (ready 0x2345 (State.reset.setPc 0xFFE))) :=
  ⟨by decide, ⟨_, rfl⟩, by decide, _, rfl⟩

theorem witness_EachWriterWritesOnlyItsRow :
    (∃ t, exec (.drw 0 1 1) (withRegs [] 0x300) = .next t) ∧
    (∃ t, (ready 0x00EE State.reset).stepWith ⟨0, none⟩ = .next (t, .fault .stackUnderflow)) :=
  ⟨⟨_, rfl⟩, ⟨_, rfl⟩⟩

/-- A step of another instruction, of each of the two, and one that waits. -/
theorem witness_StepLeavesTimersToFx15AndFx18 :
    (∃ t, (ready 0x1234 State.reset).stepWith ⟨0, none⟩ = .next (t, .next) ∧
      (ready 0x1234 State.reset).fetchInstr = .ok (.jp 0x234)) ∧
    (∃ t, (ready 0xF515 State.reset).stepWith ⟨0, none⟩ = .next (t, .next) ∧
      (ready 0xF515 State.reset).fetchInstr = .ok (.ldDtVx 5)) ∧
    (∃ t, (ready 0xF518 State.reset).stepWith ⟨0, none⟩ = .next (t, .next) ∧
      (ready 0xF518 State.reset).fetchInstr = .ok (.ldStVx 5)) ∧
    (∃ t, (ready 0xF30A State.reset).stepWith ⟨0, none⟩ = .next (t, .awaitingKey)) :=
  ⟨⟨_, rfl, rfl⟩, ⟨_, rfl, rfl⟩, ⟨_, rfl, rfl⟩, ⟨_, rfl⟩⟩

/-- An instruction of the six with `VF` as destination, one that leaves `VF`, and `Fx65` with `x = 0xF`. -/
theorem witness_FlagIsWrittenByTheSix :
    (∃ t, exec (.addReg 0xF 1) State.reset = .next t) ∧ writesFlag (.addReg 0xF 1) = true ∧
    (∃ t, exec (.ldByte 0xE 1) State.reset = .next t) ∧ writesFlag (.ldByte 0xE 1) = false ∧
    0xF#4 ∉ (writeSet State.reset (.ldByte 0xE 1)).regs ∧
    (∃ t, exec (.ldVxI 0xF) State.reset = .next t) :=
  ⟨⟨_, rfl⟩, rfl, ⟨_, rfl⟩, rfl, by decide, _, rfl⟩

theorem witness_OnlyThreeInstructionsReadTheKeypad : readsKeypad (.drw 1 2 5) = false := rfl

theorem witness_NoInstructionReadsTheSoundTimer : ∀ x, Instr.ldDtVx 5 ≠ .ldStVx x := by decide

/-- P4's store at the next word (`I = 0x208`, `pc = 0x206`), the last bases inside memory, and one byte before the
next word, so that only its first byte is stored to. -/
theorem witness_StoreIsSeenByTheNextFetch :
    (withRegs [] 0xFFD).i.toNat + 2 ≤ 0xFFF ∧ ((withRegs [] 0x206).setPc 0x206).i.toNat + 2 ≤ 0xFFF ∧
    ((withRegs [] 0x208).setPc 0x206).i.toNat + (1 : Reg).toNat ≤ 0xFFF ∧
    (withRegs [] 0xFFF).i.toNat + (0 : Reg).toNat ≤ 0xFFF ∧ (withRegs [] 0xFF0).i.toNat + (0xF : Reg).toNat ≤ 0xFFF := by
  decide

/-- A low nibble that is not 0. -/
theorem witness_SkipIfRegistersEqual_and_SkipIfRegistersDiffer : (1#4 : Nibble) ≠ 0#4 := by decide

theorem witness_CallPushesItsOwnAddress : (atDepth 15).sp.val < 16 ∧ (atDepth 16).sp.val = 16 := by decide

theorem witness_ReturnGoesTwoPastTheCall : (atDepth 1).sp.val ≠ 0 ∧ (atDepth 0).sp.val = 0 := by decide

theorem witness_CallThenReturnComesBack : (atDepth 15).sp.val < 16 := by decide

/-- For the ALU statements: a destination that is not `VF`. The clauses on `VF` hold for every destination. -/
theorem witness_AddSetsCarry_SubtractSetsNoBorrow_ShiftsMoveOneBitIntoTheFlag : (0xE#4 : Reg) ≠ 0xF#4 := by decide

theorem witness_StoreDecimalDigits :
    (withRegs [] 0xFFD).i.toNat + 2 ≤ 0xFFF ∧ (withRegs [] 0xFFE).i.toNat + 2 > 0xFFF := by decide

theorem witness_StoreRegistersInclusive :
    (withRegs [] 0xFF0).i.toNat + (0xF : Reg).toNat ≤ 0xFFF ∧ (withRegs [] 0xFF1).i.toNat + (0xF : Reg).toNat > 0xFFF ∧
    (0xF : Reg).toNat ≤ (0xF : Reg).toNat := by decide

/-- `x = 0` at any `I`; the last base that loads fifteen registers, and the next. -/
theorem witness_LoadRegistersExclusive :
    ((0 : Reg).toNat = 0 ∨ (withRegs [] 0x1234).i.toNat + (0 : Reg).toNat - 1 ≤ 0xFFF) ∧
    ((0xF : Reg).toNat = 0 ∨ (withRegs [] 0xFF1).i.toNat + (0xF : Reg).toNat - 1 ≤ 0xFFF) ∧
    ((0xF : Reg).toNat ≠ 0 ∧ (withRegs [] 0xFF2).i.toNat + (0xF : Reg).toNat - 1 > 0xFFF) ∧
    (0xE : Reg).toNat < (0xF : Reg).toNat ∧ (0xF : Reg).toNat ≤ (0xF : Reg).toNat := by decide

theorem witness_LoadAfterStoreRestoresAllButTheLast :
    (withRegs [] 0xFF0).i.toNat + (0xF : Reg).toNat ≤ 0xFFF ∧ (0xE : Reg).toNat < (0xF : Reg).toNat := by decide

/-- `n = 0` at any `I`; the last base that draws fifteen rows, and the next (T117, T122, T123). -/
theorem witness_DrawFlipsTheCellsUnderSetBits :
    ((0 : Nibble).toNat = 0 ∨ (withRegs [] 0xFFFF).i.toNat + (0 : Nibble).toNat - 1 ≤ 0xFFF) ∧
    ((0xF : Nibble).toNat = 0 ∨ (withRegs [] 0xFF1).i.toNat + (0xF : Nibble).toNat - 1 ≤ 0xFFF) ∧
    ((0xF : Nibble).toNat ≠ 0 ∧ (withRegs [] 0xFF2).i.toNat + (0xF : Nibble).toNat - 1 > 0xFFF) := by decide

/-- S6's draw. -/
theorem witness_DrawingTwiceRestoresTheDisplay :
    ∃ t, exec (.drw 0 1 1) (storing 0x300 [0xFF] (withRegs [] 0x300)) = .next t ∧
      t.getV 0 = (storing 0x300 [0xFF] (withRegs [] 0x300)).getV 0 ∧
      t.getV 1 = (storing 0x300 [0xFF] (withRegs [] 0x300)).getV 1 := ⟨_, rfl, by decide, by decide⟩

theorem witness_KeypadSkipsFollowTheSample :
    ((withRegs [(2, 15)]).getV 2).toNat ≤ 15 ∧ ((withRegs [(2, 16)]).getV 2).toNat > 15 := by decide

theorem witness_KeyWaitTakesTheReportedKey :
    (withSample [] 0 (some 15)).keys.last = some 15 ∧ State.reset.keys.last = none := by decide

/-- The longest program, and the byte below and the byte above a short one. -/
theorem witness_LoadCopiesTheProgram :
    (List.replicate 3584 0x60#8).length ≤ 3584 ∧ State.reset.MemoryCanonical ∧ 0 < [0x60#8].length ∧
    ¬(0x200 ≤ 0x1FF ∧ 0x1FF < 0x200 + [0x60#8].length) ∧ ¬(0x200 ≤ 0x201 ∧ 0x201 < 0x200 + [0x60#8].length) :=
  ⟨by rw [List.length_replicate], State.reset_memory_wf, by decide, by decide, by decide⟩

/-- Both phases, the longest program and one a byte longer. -/
theorem witness_HostCallsKeepTheOrderOfBoot :
    (Session.construct specDefaults).phase = .constructed ∧
    (⟨specDefaults, .loaded, Hardware.reset⟩ : Session).phase = .loaded ∧
    (List.replicate 3584 0x60#8).length ≤ 3584 ∧ (List.replicate 3585 0x60#8).length > 3584 :=
  ⟨rfl, rfl, by rw [List.length_replicate], by rw [List.length_replicate]; decide⟩

theorem witness_DisplayReadAndDumpChangeNothing :
    (⟨specDefaults, .loaded, Hardware.reset⟩ : Session).phase = .loaded := rfl

/-- Either setting of either Boolean parameter; the ends of the font and the byte above it; an instruction that uses
no parameter; `x` other than 0xF; the last base of an inclusive `Fx65` and the next; the five instructions. -/
theorem witness_ParametersAreArgumentsOfTheMachine :
    specDefaults.fx65Inclusive = false ∧ otherSettings.fx65Inclusive = true ∧ specDefaults.vfLast = true ∧
    otherSettings.vfLast = false ∧ (0 < 80 ∧ 79 < 80 ∧ 80 ≤ 80) ∧ usesParameter (.drw 1 2 5) = false ∧
    (0xE#4 : Reg) ≠ 0xF#4 ∧ (withRegs [] 0xFF0).i.toNat + (0xF : Reg).toNat ≤ 0xFFF ∧
    (withRegs [] 0xFF1).i.toNat + (0xF : Reg).toNat > 0xFFF ∧
    Instr.shr 0xE 1 ∈ [.addReg 0xE 1, .subReg 0xE 1, .shr 0xE 1, .subnReg 0xE 1, .shl 0xE 1] := by decide

end Sys2Proof.Tests
end

section
/-! The fields of a word as the masks and shifts of rule R10. -/

namespace Sys2Proof

/-- The masks of R10 are all of the form `2 ^ len - 1`, so one lemma about slices serves every field that R10
gives by a mask. -/
theorem setWidth_extractLsb'_eq_shiftRight_and_mask {v : Nat} (b : BitVec v) (start : Nat) {len : Nat} (hlen : len ≤ v) :
    (b.extractLsb' start len).setWidth v = (b >>> start) &&& BitVec.ofNat v (2 ^ len - 1) := by
  have hmask : 2 ^ len - 1 < 2 ^ v :=
    (Nat.sub_lt (Nat.two_pow_pos len) Nat.one_pos).trans_le (Nat.pow_le_pow_right Nat.two_pos hlen)
  apply BitVec.eq_of_toNat_eq
  calc ((b.extractLsb' start len).setWidth v).toNat
      = b.toNat >>> start % 2 ^ len := by
        rw [BitVec.toNat_setWidth_of_le hlen, BitVec.extractLsb'_toNat]
    _ = b.toNat >>> start &&& (2 ^ len - 1) := (Nat.and_two_pow_sub_one_eq_mod _ _).symm
    _ = (b >>> start &&& BitVec.ofNat v (2 ^ len - 1)).toNat := by
        rw [BitVec.toNat_and, BitVec.toNat_ushiftRight, BitVec.toNat_ofNat, Nat.mod_eq_of_lt hmask]

/-- The mask of R10's `n`, `kk` and `addr`, which start at bit 0 and need no shift. -/
theorem setWidth_extractLsb'_zero_eq_and_mask {v : Nat} (b : BitVec v) {len : Nat} (hlen : len ≤ v) :
    (b.extractLsb' 0 len).setWidth v = b &&& BitVec.ofNat v (2 ^ len - 1) := by
  rw [setWidth_extractLsb'_eq_shiftRight_and_mask b 0 hlen, BitVec.ushiftRight_zero]

theorem setWidth_addrField (w : Word) : (addrField w).setWidth 16 = w &&& 0xFFF#16 :=
  setWidth_extractLsb'_zero_eq_and_mask w (by decide)

theorem setWidth_nField (w : Word) : (nField w).setWidth 16 = w &&& 0xF#16 :=
  setWidth_extractLsb'_zero_eq_and_mask w (by decide)

theorem setWidth_kkField (w : Word) : (kkField w).setWidth 16 = w &&& 0xFF#16 :=
  setWidth_extractLsb'_zero_eq_and_mask w (by decide)

theorem setWidth_xField (w : Word) : (xField w).setWidth 16 = (w >>> 8) &&& 0xF#16 :=
  setWidth_extractLsb'_eq_shiftRight_and_mask w 8 (by decide)

theorem setWidth_yField (w : Word) : (yField w).setWidth 16 = (w >>> 4) &&& 0xF#16 :=
  setWidth_extractLsb'_eq_shiftRight_and_mask w 4 (by decide)

/-- The top nibble needs no mask: a word shifted right by 12 is below 16. -/
theorem setWidth_opField (w : Word) : (opField w).setWidth 16 = w >>> 12 := by
  have hlt : w.toNat >>> 12 < 2 ^ 4 := by
    rw [Nat.shiftRight_eq_div_pow]; omega
  apply BitVec.eq_of_toNat_eq
  rw [opField, BitVec.toNat_setWidth_of_le (by decide), BitVec.extractLsb'_toNat, BitVec.toNat_ushiftRight,
    Nat.mod_eq_of_lt hlt]

/-- Settles O2: each field is a slice, and a slice is a shift followed by a mask (rule R10). -/
theorem fieldsAreTheSlicesOfTheWord : Obligations.FieldsAreTheSlicesOfTheWord := fun w =>
  ⟨setWidth_addrField w, setWidth_nField w, setWidth_xField w, setWidth_yField w, setWidth_kkField w,
    setWidth_opField w⟩

end Sys2Proof
end

section
/-! The fetched word as a number: rule R50's byte order without shifts. -/

namespace Sys2Proof

/-- The lower byte has no bit above bit 7, so the "or" that joins the bytes is a sum. -/
theorem toNat_wordOfBytes (hi lo : Byte) : (wordOfBytes hi lo).toNat = 256 * hi.toNat + lo.toNat := by
  have hshift : (hi.setWidth 16 <<< 8).toNat = hi.toNat <<< 8 := by
    rw [BitVec.toNat_shiftLeft, BitVec.toNat_setWidth_of_le (by decide), Nat.shiftLeft_eq]
    omega
  calc (wordOfBytes hi lo).toNat
      = hi.toNat <<< 8 ||| lo.toNat := by
        rw [wordOfBytes, BitVec.toNat_or, hshift, BitVec.toNat_setWidth_of_le (by decide)]
    _ = hi.toNat <<< 8 + lo.toNat := (Nat.shiftLeft_add_eq_or_of_lt lo.isLt _).symm
    _ = 256 * hi.toNat + lo.toNat := by rw [Nat.shiftLeft_eq, Nat.mul_comm]

/-- Settles O7: a fetch joins the byte at the address and the next by `wordOfBytes` (rule R50). -/
theorem fetchIsBigEndian : Obligations.FetchIsBigEndian := fun m a =>
  ⟨rfl, toNat_wordOfBytes (m.read a) (m.read (a + 1))⟩

end Sys2Proof
end

section
/-! The instruction cycle and the step where the fetch lies outside memory or inside it (rule R101). -/

namespace Sys2Proof.Machine

theorem cycle_outside {s : State} (h : 0xFFE < s.pc.toNat) : cycle s = .fault (.memoryFault s.pc.toNat) := by
  rcases cycle_cases s with ⟨-, hc⟩ | ⟨hin, -⟩ | ⟨hin, -⟩
  · exact hc
  · omega
  · omega

/-- The host's turn leaves `pc` as it was, so a step fetches where a cycle on the state before it would. -/
theorem step_outside {s : State} (h : 0xFFE < s.pc.toNat) : step s = .fault (.memoryFault s.pc.toNat) :=
  cycle_outside (s := s.beginTurn) h

/-- Settles O8: the word of the statement is `fetchWord` unfolded, so the ways a cycle goes are the cases of the
statement (rule R101). -/
theorem fetchOutsideMemoryFaults : Obligations.FetchOutsideMemoryFaults := by
  refine fun s => ⟨fun h => ⟨cycle_outside h, step_outside h⟩, fun h => ?_⟩
  rcases cycle_cases s with ⟨hout, -⟩ | ⟨-, ⟨e, hd⟩, hc⟩ | ⟨-, i, hd, hc⟩
  · omega
  · rw [State.fetchWord, Memory.fetch16, wordOfBytes] at hd hc
    rw [hc, hd]
  · rw [State.fetchWord, Memory.fetch16, wordOfBytes] at hd
    rw [hc, hd]

end Sys2Proof.Machine
end

section
/-! The outcomes of a step on the ten components (rule R100). No instruction refuses, so a cycle ends in a next
state or in a fault; `Fx0A` with no key reported is one that ends in a next state, the state as it was. -/

namespace Sys2Proof.Machine

/-! ## No instruction refuses -/

theorem guardRange_next_ne_refused {σ : Type} (base count : Nat) (t : σ) (r : Refusal) :
    guardRange base count (.next t) ≠ .refused r := by
  by_cases h : count = 0 ∨ base + count ≤ 4096
  · rw [guardRange_of_inside _ h]
    exact nofun
  · rw [guardRange_of_outside _ h]
    exact nofun

theorem State.guardKey_next_ne_refused {σ : Type} (s : State) (x : Reg) (f : Byte → σ) (r : Refusal) :
    s.guardKey x (fun k => .next (f k)) ≠ .refused r := by
  rcases Nat.lt_or_ge 15 (s.getV x).toNat with h | h
  · rw [State.guardKey_of_no_key _ h]
    exact nofun
  · rw [State.guardKey_of_key _ h]
    exact nofun

/-- The instructions that can fault do so by the stack, the range guard or the key guard; all others answer a next
state in every state. -/
theorem exec_ne_refused (i : Instr) (s : State) (r : Refusal) : exec i s ≠ .refused r := by
  cases i with
  | ret =>
    change execRet s ≠ _
    cases hp : s.pop <;> simp [execRet, hp, raise]
  | call addr =>
    change execCall addr s ≠ _
    cases hp : s.push s.pc <;> simp [execCall, hp, raise]
  | drw x y n => exact guardRange_next_ne_refused _ _ _ r
  | ldB x => exact guardRange_next_ne_refused _ _ _ r
  | ldIVx x => exact guardRange_next_ne_refused _ _ _ r
  | ldVxI x => exact guardRange_next_ne_refused _ _ _ r
  | skp x => exact s.guardKey_next_ne_refused x (fun k => s.skipIf (s.keyDown k)) r
  | sknp x => exact s.guardKey_next_ne_refused x (fun k => s.skipIf (!s.keyDown k)) r
  | _ => exact nofun

/-! ## How an instruction cycle ends -/

theorem cycle_of_fetchInstr {s : State} {i : Instr} (hi : s.fetchInstr = .ok i) : cycle s = exec i s := by
  simp [cycle, hi]

/-- A next state comes of an instruction fetched and executed; all else is a fault. -/
theorem cycle_next_or_fault (s : State) :
    (∃ i t, s.fetchInstr = .ok i ∧ exec i s = .next t ∧ cycle s = .next t) ∨ ∃ f, cycle s = .fault f := by
  rcases cycle_cases s with ⟨-, hc⟩ | ⟨-, -, hc⟩ | ⟨hpc, i, hd, hc⟩
  · exact .inr ⟨_, hc⟩
  · exact .inr ⟨_, hc⟩
  · cases he : exec i s with
    | next t => exact .inl ⟨i, t, State.fetchInstr_decoded hpc hd, he, hc.trans he⟩
    | fault f => exact .inr ⟨f, hc.trans he⟩
    | refused r => exact absurd he (exec_ne_refused i s r)

theorem exec_ldVxK_of_no_key {s : State} (x : Reg) (hk : s.keyLast = none) : exec (.ldVxK x) s = .next s := by
  change Host.Outcome.next (s.takeKey x) = _
  rw [State.takeKey, hk]

/-- A step that awaits a key is no fault, so the two outcomes exclude each other (rule R192). -/
theorem Hardware.cycle_given_of_awaitsKey {h : Hardware} {k : KeypadSample} (ha : (h.given k).awaitsKey = true) :
    cycle (h.given k) = .next (h.given k) := by
  obtain ⟨hk, x, hi⟩ := Hardware.awaitsKey_given_iff.1 ha
  rw [cycle_of_fetchInstr hi, exec_ldVxK_of_no_key (s := h.given k) x hk]

/-- Settles O14: `Fault` where the cycle faults; where it answers a next state, `AwaitingKey` or `Next` as the step
awaits a key or not (rule R100). -/
theorem stepEndsInOneOfThreeOutcomes : Obligations.StepEndsInOneOfThreeOutcomes := by
  intro h k
  rw [← Hardware.awaitsKey_given_iff]
  rcases cycle_next_or_fault (h.given k) with ⟨i, u, hi, hu, hc⟩ | ⟨f, hc⟩
  · have hnf : ∀ f, cycle (h.given k) ≠ .fault f := by simp [hc]
    cases ha : (h.given k).awaitsKey with
    | true =>
      exact ⟨h, .awaitingKey, Hardware.outcomeOf_awaitingKey hc ha, nofun, iff_of_true rfl rfl, fun _ => rfl,
        fun f => iff_of_false nofun (hnf f), nofun⟩
    | false =>
      exact ⟨u.toHardware, .next, Hardware.outcomeOf_next hc ha, fun _ => ⟨i, u, hi, hu, rfl⟩,
        iff_of_false nofun nofun, nofun, fun f => iff_of_false nofun (hnf f), nofun⟩
  · have hna : (h.given k).awaitsKey ≠ true := fun ha => by
      simp [Hardware.cycle_given_of_awaitsKey ha] at hc
    exact ⟨h, .fault f, Hardware.outcomeOf_fault hc, nofun, iff_of_false nofun hna, nofun,
      fun g => by simp [hc], fun _ _ => rfl⟩

end Sys2Proof.Machine
end

section
/-! The jumps `1nnn`, `Bnnn` and the skips on an immediate, `3xkk` and `4xkk` (rules R121, R123, R124, R127). Each
assigns `pc` and does nothing else, so one frame lemma serves all four. -/

namespace Sys2Proof.Machine

/-! ## Decoding (rules R81, R83): the top nibble alone selects the family -/

theorem decode_jp (addr : Addr12) : decode (encodeNNN 0x1#4 addr) = .ok (.jp addr) :=
  decode_eq_ok.2 (by simp [decodeFamily])

theorem decode_jpV0 (addr : Addr12) : decode (encodeNNN 0xB#4 addr) = .ok (.jpV0 addr) :=
  decode_eq_ok.2 (by simp [decodeFamily])

theorem decode_seByte (x : Reg) (kk : Byte) : decode (encodeXKK 0x3#4 x kk) = .ok (.seByte x kk) :=
  decode_eq_ok.2 (by simp [decodeFamily])

theorem decode_sneByte (x : Reg) (kk : Byte) : decode (encodeXKK 0x4#4 x kk) = .ok (.sneByte x kk) :=
  decode_eq_ok.2 (by simp [decodeFamily])

section
variable (s : State)

/-! ## Meanings -/

theorem exec_jp (addr : Addr12) : exec (.jp addr) s = .next (s.setPc (addrOperand Config.pcWidth addr)) := rfl

theorem exec_jpV0 (addr : Addr12) :
    exec (.jpV0 addr) s = .next (s.setPc (addrOperand Config.pcWidth addr + s.wideV Config.pcWidth 0#4)) := rfl

theorem exec_seByte (x : Reg) (kk : Byte) : exec (.seByte x kk) s = .next (s.skipIf (s.getV x == kk)) := rfl

theorem exec_sneByte (x : Reg) (kk : Byte) : exec (.sneByte x kk) s = .next (s.skipIf (s.getV x != kk)) := rfl

/-! ## Frames -/

theorem State.frame_setPc (w : Word) : Frame {} s (s.setPc w) where
  regs _ _ := s.getV_setPc w _
  index _ := s.setPc_i w
  sp _ := s.setPc_sp w
  stack _ _ := rfl
  delay _ := s.setPc_dt w
  sound _ := s.setPc_st w
  random _ := s.setPc_rng w
  memory _ _ := rfl
  display _ _ _ := rfl
  inputs := ⟨s.setPc_keys w, s.setPc_pending w, s.setPc_turn w⟩

/-- A skip is an assignment to `pc` (rule R105). -/
theorem State.frame_skipIf (c : Bool) : Frame {} s (s.skipIf c) := s.frame_setPc _

/-! ## The new `pc` as a number -/

/-- The sum is at most `0xFFF + 0xFF`, so nothing is truncated (rule R127). -/
theorem State.toNat_addrOperand_add_wideV (addr : Addr12) (x : Reg) :
    (addrOperand Config.pcWidth addr + s.wideV Config.pcWidth x).toNat = addr.toNat + (s.getV x).toNat := by
  have haddr := addr.isLt
  have hv := (s.getV x).isLt
  rw [BitVec.toNat_add, addrOperand_toNat, State.wideV_toNat, pcWidth_eq, Nat.mod_eq_of_lt (by omega)]

theorem State.toNat_pc_skipIf (c : Bool) :
    (s.skipIf c).pc.toNat = (s.pc.toNat + if c then 4 else 2) % 0x10000 := by
  rw [State.skipIf_pc]
  cases c <;> exact BitVec.toNat_add _ _

theorem State.toNat_pc_skipIf_eq (a b : Byte) :
    (s.skipIf (a == b)).pc.toNat = (s.pc.toNat + if a.toNat = b.toNat then 4 else 2) % 0x10000 := by
  rw [State.toNat_pc_skipIf]
  simp [BitVec.toNat_inj]

theorem State.toNat_pc_skipIf_ne (a b : Byte) :
    (s.skipIf (a != b)).pc.toNat = (s.pc.toNat + if a.toNat = b.toNat then 2 else 4) % 0x10000 := by
  rw [State.toNat_pc_skipIf]
  simp [BitVec.toNat_inj]

end

/-! ## The statements -/

/-- Settles O27: the sum of `addr` and `V[0]` fits the width of `pc` (rule R127). -/
theorem jumpWithOffsetAddsV0 : Obligations.JumpWithOffsetAddsV0 := fun addr s =>
  ⟨decode_jpV0 addr, _, exec_jpV0 s addr, s.toNat_addrOperand_add_wideV addr 0#4, s.frame_setPc _⟩

/-- Settles O28: a skip on equality of the two bytes (rule R123). -/
theorem skipIfEqualImmediate : Obligations.SkipIfEqualImmediate := fun x kk s =>
  ⟨decode_seByte x kk, _, exec_seByte s x kk, s.frame_skipIf _, s.toNat_pc_skipIf_eq (s.getV x) kk⟩

/-- Settles O29: a skip on difference of the two bytes (rule R124). -/
theorem skipIfNotEqualImmediate : Obligations.SkipIfNotEqualImmediate := fun x kk s =>
  ⟨decode_sneByte x kk, _, exec_sneByte s x kk, s.frame_skipIf _, s.toNat_pc_skipIf_ne (s.getV x) kk⟩

/-- Settles O26: the zero-extended operand has the value of `addr` (rule R121). -/
theorem jumpSetsPcToAddr : Obligations.JumpSetsPcToAddr := fun addr s =>
  ⟨decode_jp addr, _, exec_jp s addr, addrOperand_toNat addr, s.frame_setPc _⟩

end Sys2Proof.Machine
end

section
/-! The loads `6xkk`, `8xy0` and the ALU instructions that write no flag, `7xkk`, `8xy1`, `8xy2`, `8xy3` (rules R141
to R146). Each writes `V[x]` and takes the default advance (rule R105), so one value lemma and one frame serve all
six. -/

namespace Sys2Proof.Machine

/-! ## Decoding (rule R83): the top nibble alone, or in family 0x8 the low nibble too -/

theorem decode_ldByte (x : Reg) (kk : Byte) : decode (encodeXKK 0x6#4 x kk) = .ok (.ldByte x kk) :=
  decode_eq_ok.2 (by simp [decodeFamily])

theorem decode_addByte (x : Reg) (kk : Byte) : decode (encodeXKK 0x7#4 x kk) = .ok (.addByte x kk) :=
  decode_eq_ok.2 (by simp [decodeFamily])

/-- In family 0x8 the second level decides. -/
theorem decodeFamily_alu (x y : Reg) (n : Nibble) :
    decodeFamily (encodeXYN 0x8#4 x y n) = decodeAlu (encodeXYN 0x8#4 x y n) := by
  simp [decodeFamily]

theorem decode_ldReg (x y : Reg) : decode (encodeXYN 0x8#4 x y 0x0#4) = .ok (.ldReg x y) :=
  decode_eq_ok.2 (by simp [decodeFamily_alu, decodeAlu])

theorem decode_orReg (x y : Reg) : decode (encodeXYN 0x8#4 x y 0x1#4) = .ok (.orReg x y) :=
  decode_eq_ok.2 (by simp [decodeFamily_alu, decodeAlu])

theorem decode_andReg (x y : Reg) : decode (encodeXYN 0x8#4 x y 0x2#4) = .ok (.andReg x y) :=
  decode_eq_ok.2 (by simp [decodeFamily_alu, decodeAlu])

theorem decode_xorReg (x y : Reg) : decode (encodeXYN 0x8#4 x y 0x3#4) = .ok (.xorReg x y) :=
  decode_eq_ok.2 (by simp [decodeFamily_alu, decodeAlu])

section
variable (s : State)

/-! ## Meanings -/

theorem exec_ldByte (x : Reg) (kk : Byte) : exec (.ldByte x kk) s = .next (s.setV x kk).advance := rfl

theorem exec_addByte (x : Reg) (kk : Byte) :
    exec (.addByte x kk) s = .next (s.setV x (s.getV x + kk)).advance := rfl

theorem exec_ldReg (x y : Reg) : exec (.ldReg x y) s = .next (s.setV x (s.getV y)).advance := rfl

theorem exec_orReg (x y : Reg) : exec (.orReg x y) s = .next (s.setV x (s.getV x ||| s.getV y)).advance := rfl

theorem exec_andReg (x y : Reg) : exec (.andReg x y) s = .next (s.setV x (s.getV x &&& s.getV y)).advance := rfl

theorem exec_xorReg (x y : Reg) : exec (.xorReg x y) s = .next (s.setV x (s.getV x ^^^ s.getV y)).advance := rfl

/-! ## Value, `pc` and frame of one register write -/

theorem State.getV_advance_setV (x : Reg) (b : Byte) : (s.setV x b).advance.getV x = b := by
  rw [State.getV_advance, State.getV_setV_same]

theorem State.pc_advance_setV (x : Reg) (b : Byte) : (s.setV x b).advance.pc = s.pc + 2#16 := by
  rw [State.advance_pc, State.setV_pc]

theorem State.frame_setV (x : Reg) (b : Byte) : Frame { regs := [x] } s (s.setV x b) where
  regs _ hr := s.getV_setV_ne b (List.ne_of_not_mem_cons hr)
  index _ := s.setV_i x b
  sp _ := s.setV_sp x b
  stack _ _ := rfl
  delay _ := s.setV_dt x b
  sound _ := s.setV_st x b
  random _ := s.setV_rng x b
  memory _ _ := rfl
  display _ _ _ := rfl
  inputs := ⟨s.setV_keys x b, s.setV_pending x b, s.setV_turn x b⟩

end

/-- A frame says nothing of `pc`, which is all the default advance writes. -/
theorem Frame.advance {w : WriteSet} {s t : State} (h : Frame w s t) : Frame w s t.advance where
  regs := h.regs
  index := h.index
  sp := h.sp
  stack := h.stack
  delay := h.delay
  sound := h.sound
  random := h.random
  memory := h.memory
  display := h.display
  inputs := h.inputs

/-! ## The statements -/

/-- Settles O36: addition of bytes is addition modulo 256 (rule R142). -/
theorem addImmediate : Obligations.AddImmediate := fun x kk s =>
  ⟨decode_addByte x kk, _, exec_addByte s x kk,
    by rw [State.getV_advance_setV]; exact BitVec.toNat_add (s.getV x) kk,
    s.pc_advance_setV x _, (s.frame_setV x _).advance⟩

/-- Settles O38: the three operators on bytes act bit by bit (rules R144, R145, R146). -/
theorem orAndXorAreBitwise : Obligations.OrAndXorAreBitwise := fun x y s =>
  ⟨⟨decode_orReg x y, _, exec_orReg s x y,
      fun _ => by rw [State.getV_advance_setV, BitVec.getLsbD_or],
      s.pc_advance_setV x _, (s.frame_setV x _).advance⟩,
    ⟨decode_andReg x y, _, exec_andReg s x y,
      fun _ => by rw [State.getV_advance_setV, BitVec.getLsbD_and],
      s.pc_advance_setV x _, (s.frame_setV x _).advance⟩,
    ⟨decode_xorReg x y, _, exec_xorReg s x y,
      fun _ => by rw [State.getV_advance_setV, BitVec.getLsbD_xor],
      s.pc_advance_setV x _, (s.frame_setV x _).advance⟩⟩

/-- Settles O35: the register written is the register read back (rule R141). -/
theorem loadImmediate : Obligations.LoadImmediate := fun x kk s =>
  ⟨decode_ldByte x kk, _, exec_ldByte s x kk, s.getV_advance_setV x kk, s.pc_advance_setV x kk,
    (s.frame_setV x kk).advance⟩

/-- Settles O37: `V[y]` is read before the write, so `x = y` needs no case of its own (rule R143). -/
theorem copyRegister : Obligations.CopyRegister := fun x y s =>
  ⟨decode_ldReg x y, _, exec_ldReg s x y, s.getV_advance_setV x _, s.pc_advance_setV x _,
    (s.frame_setV x _).advance⟩

end Sys2Proof.Machine
end

section
/-! The load of the index register, `Annn` (rule R160): it writes `I` and takes the default advance (rule R105). -/

namespace Sys2Proof.Machine

theorem decode_ldI (addr : Addr12) : decode (encodeNNN 0xA#4 addr) = .ok (.ldI addr) :=
  decode_eq_ok.2 (by simp [decodeFamily])

section
variable (s : State)

theorem exec_ldI (addr : Addr12) :
    exec (.ldI addr) s = .next (s.setI (addrOperand Config.iWidth addr)).advance := rfl

theorem State.i_advance_setI (w : Word) : (s.setI w).advance.i = w := by
  rw [State.advance_i, State.setI_i]

theorem State.pc_advance_setI (w : Word) : (s.setI w).advance.pc = s.pc + 2#16 := by
  rw [State.advance_pc, State.setI_pc]

theorem State.frame_setI (w : Word) : Frame { index := true } s (s.setI w) where
  regs _ _ := s.getV_setI w _
  index := nofun
  sp _ := s.setI_sp w
  stack _ _ := rfl
  delay _ := s.setI_dt w
  sound _ := s.setI_st w
  random _ := s.setI_rng w
  memory _ _ := rfl
  display _ _ _ := rfl
  inputs := ⟨s.setI_keys w, s.setI_pending w, s.setI_turn w⟩

end

/-- `I` is as wide as `pc`, so the zero-extended operand has the value of `addr` here too. -/
theorem addrOperand_iWidth_toNat (addr : Addr12) : (addrOperand Config.iWidth addr).toNat = addr.toNat :=
  addrOperand_toNat addr

/-- Settles O42: the index register receives the zero-extended operand (rule R160). -/
theorem loadIndex : Obligations.LoadIndex := fun addr s =>
  ⟨decode_ldI addr, _, exec_ldI s addr,
    by rw [State.i_advance_setI]; exact addrOperand_iWidth_toNat addr,
    s.pc_advance_setI _, (s.frame_setI _).advance⟩

end Sys2Proof.Machine
end

section
/-! The tick operation of the host (rule R220): each timer counts down by one and stops at zero. -/

namespace Sys2Proof.Machine

@[simp] theorem tickTimer_zero : tickTimer 0x00#8 = 0x00#8 := rfl

theorem tickTimer_of_ne_zero {t : Byte} (ht : t ≠ 0x00#8) : tickTimer t = t - 1#8 := if_neg ht

/-- Subtraction of natural numbers stops at zero as a timer does; above zero the byte does not wrap (rule R220). -/
theorem tickTimer_toNat (t : Byte) : (tickTimer t).toNat = t.toNat - 1 := by
  by_cases ht : t = 0x00#8
  · rw [ht, tickTimer_zero]; rfl
  · have one_le : 1#8 ≤ t := by bv_omega
    rw [tickTimer_of_ne_zero ht, BitVec.toNat_sub_of_le one_le]; rfl

theorem State.tick_eq_setDt_setSt (s : State) :
    s.tick = (s.setDt (tickTimer s.dt)).setSt (tickTimer s.st) := rfl

/-- Settles O56: tick writes the two timers, each of which counts down in natural numbers (rule R220). -/
theorem tickCountsBothTimersDownToZero : Obligations.TickCountsBothTimersDownToZero := fun s =>
  ⟨tickTimer_toNat s.dt, tickTimer_toNat s.st, s.tick_eq_setDt_setSt⟩

end Sys2Proof.Machine
end

section
/-! The decoder is a left inverse of the encoder: every instruction, with every operand, is what its word decodes to
(rules R83, R86). -/

namespace Sys2Proof

theorem decodeFamily_keypad (x : Reg) (kk : Byte) :
    decodeFamily (encodeXKK 0xE#4 x kk) = decodeKeypad (encodeXKK 0xE#4 x kk) := by
  simp [decodeFamily]

theorem decodeFamily_misc (x : Reg) (kk : Byte) :
    decodeFamily (encodeXKK 0xF#4 x kk) = decodeMisc (encodeXKK 0xF#4 x kk) := by
  simp [decodeFamily]

/-- The cases are the families of rule R83: two fixed words, the families the top nibble alone selects, and those with
a second level. -/
theorem decodeFamily_encode (i : Instr) : decodeFamily (encode i) = some i := by
  cases i with
  | cls | ret => rfl
  | jp | call | seByte | sneByte | seReg | ldByte | addByte | sneReg | ldI | jpV0 | rnd | drw =>
    simp [encode, decodeFamily]
  | ldReg | orReg | andReg | xorReg | addReg | subReg | shr | subnReg | shl =>
    simp [encode, Machine.decodeFamily_alu, decodeAlu]
  | skp | sknp => simp [encode, decodeFamily_keypad, decodeKeypad]
  | ldVxDt | ldVxK | ldDtVx | ldStVx | addI | ldF | ldB | ldIVx | ldVxI =>
    simp [encode, decodeFamily_misc, decodeMisc]

@[simp] theorem decode_encode (i : Instr) : decode (encode i) = .ok i := decode_eq_ok.2 (decodeFamily_encode i)

theorem encode_injective {i j : Instr} (h : encode i = encode j) : i = j :=
  Option.some.inj (by rw [← decodeFamily_encode i, h, decodeFamily_encode])

/-- Settles O3: `decode_encode`, family by family. -/
theorem decodeOfEncodeIsTheInstruction : Obligations.DecodeOfEncodeIsTheInstruction := decode_encode

/-- Settles O1: each of the words written out is the encoding of the instruction it stands for. -/
theorem decodeReadsWordsWrittenOut : Obligations.DecodeReadsWordsWrittenOut :=
  ⟨decode_encode .cls, decode_encode .ret, decode_encode (.jp 0x234), decode_encode (.seByte 0x3 0x2A),
    decode_encode (.sneReg 0x1 0x2), decode_encode (.ldByte 0xA 0x3C), decode_encode (.shr 0x4 0x0),
    decode_encode (.shl 0x0 0x1), decode_encode (.ldI 0x123), decode_encode (.ldVxI 0x2),
    decode_encode (.drw 0x1 0x2 0x5), decode_encode (.skp 0x2), decode_encode (.ldVxK 0x3),
    decode_encode (.rnd 0x1 0x0F)⟩

end Sys2Proof
end

section
/-! The encoder is a left inverse of the decoder on the words that decode, and these are the words the opcode map covers
(rules R84, R86, R87). -/

namespace Sys2Proof

/-! ## A word from the fields that are known -/

section
variable {w : Word} {op n : Nibble} {kk : Byte}

theorem encodeNNN_of_op (hop : opField w = op) : encodeNNN op (addrField w) = w := by
  rw [← hop, encodeNNN_fields]

theorem encodeXKK_of_op (hop : opField w = op) : encodeXKK op (xField w) (kkField w) = w := by
  rw [← hop, encodeXKK_fields]

theorem encodeXKK_of_op_kk (hop : opField w = op) (hkk : kkField w = kk) : encodeXKK op (xField w) kk = w := by
  rw [← hkk, encodeXKK_of_op hop]

theorem encodeXYN_of_op (hop : opField w = op) : encodeXYN op (xField w) (yField w) (nField w) = w := by
  rw [← hop, encodeXYN_fields]

theorem encodeXYN_of_op_n (hop : opField w = op) (hn : nField w = n) :
    encodeXYN op (xField w) (yField w) n = w := by
  rw [← hn, encodeXYN_of_op hop]

end

/-! ## What decodes, family by family -/

section
variable {w : Word} {i : Instr}

theorem encode_of_decodeSystem (hop : opField w = 0x0#4) (h : decodeSystem w = some i) : encode i = w := by
  unfold decodeSystem at h
  split at h
  next ha => cases h; rw [← encodeNNN_of_op hop, ha]; rfl
  next =>
    split at h
    next ha => cases h; rw [← encodeNNN_of_op hop, ha]; rfl
    next => cases h

theorem encode_of_decodeAlu (hop : opField w = 0x8#4) (h : decodeAlu w = some i) : encode i = w := by
  unfold decodeAlu at h
  split at h
  case h_10 => cases h
  all_goals
    next hn => cases h; exact encodeXYN_of_op_n hop (BitVec.eq_of_toNat_eq hn)

/-- One link of the second level's chain of comparisons. -/
theorem of_ite_eq_some {α : Type} {c : Prop} [Decidable c] {a b : α} {o : Option α}
    (h : (if c then some a else o) = some b) : (c ∧ a = b) ∨ o = some b := by
  split at h
  next hc => exact .inl ⟨hc, Option.some.inj h⟩
  next => exact .inr h

theorem encode_of_decodeKeypad (hop : opField w = 0xE#4) (h : decodeKeypad w = some i) : encode i = w := by
  unfold decodeKeypad at h
  repeat
    rcases of_ite_eq_some h with ⟨hkk, rfl⟩ | h
    · exact encodeXKK_of_op_kk hop hkk
  cases h

theorem encode_of_decodeMisc (hop : opField w = 0xF#4) (h : decodeMisc w = some i) : encode i = w := by
  unfold decodeMisc at h
  repeat
    rcases of_ite_eq_some h with ⟨hkk, rfl⟩ | h
    · exact encodeXKK_of_op_kk hop hkk
  cases h

/-- The sixteen cases are the families of rule R83; those with a second level go to it. -/
theorem encode_of_decodeFamily (h : decodeFamily w = some i) : encode i = w := by
  unfold decodeFamily at h
  split at h <;> rename_i hop
  case h_1 => exact encode_of_decodeSystem (BitVec.eq_of_toNat_eq hop) h
  case h_9 => exact encode_of_decodeAlu (BitVec.eq_of_toNat_eq hop) h
  case h_15 => exact encode_of_decodeKeypad (BitVec.eq_of_toNat_eq hop) h
  case h_16 => exact encode_of_decodeMisc (BitVec.eq_of_toNat_eq hop) h
  case h_17 => cases h
  case h_6 | h_10 =>
    rcases of_ite_eq_some h with ⟨hn, rfl⟩ | h
    · exact encodeXYN_of_op_n (BitVec.eq_of_toNat_eq hop) hn
    · cases h
  case h_14 => cases h; exact encodeXYN_of_op (BitVec.eq_of_toNat_eq hop)
  case h_2 | h_3 | h_11 | h_12 => cases h; exact encodeNNN_of_op (BitVec.eq_of_toNat_eq hop)
  case h_4 | h_5 | h_7 | h_8 | h_13 => cases h; exact encodeXKK_of_op (BitVec.eq_of_toNat_eq hop)

theorem encode_of_decode (h : decode w = .ok i) : encode i = w := encode_of_decodeFamily (decode_eq_ok.1 h)

end

/-- Settles O4: the fields the decoder reads are put back where they stood. -/
theorem encodeOfDecodeIsTheWord : Obligations.EncodeOfDecodeIsTheWord := fun _ _ => encode_of_decode

/-! ## The rows of the opcode map (rule R86) -/

/-- No two rows have one mnemonic. -/
theorem opcodeRow_eq_of_mnemonic {r q : OpcodeRow} (hr : r ∈ opcodeRows) (hq : q ∈ opcodeRows)
    (h : r.mnemonic = q.mnemonic) : r = q := by
  have hnodup : (opcodeRows.map OpcodeRow.mnemonic).Nodup := by decide
  exact List.inj_on_of_nodup_map hnodup hr hq h

section
variable {w : Word}

theorem opField_of_and_F000 {op : Nibble} (h : w &&& 0xF000#16 = encodeNNN op 0) : opField w = op := by
  rw [← encodeNNN_fields w, encodeNNN_and_F000] at h
  simpa using congrArg opField h

theorem fields_of_and_F00F {op n : Nibble} (h : w &&& 0xF00F#16 = encodeXYN op 0 0 n) :
    opField w = op ∧ nField w = n := by
  rw [← encodeXYN_fields w, encodeXYN_and_F00F] at h
  exact ⟨by simpa using congrArg opField h, by simpa using congrArg nField h⟩

theorem fields_of_and_F0FF {op : Nibble} {kk : Byte} (h : w &&& 0xF0FF#16 = encodeXKK op 0 kk) :
    opField w = op ∧ kkField w = kk := by
  rw [← encodeXKK_fields w, encodeXKK_and_F0FF] at h
  exact ⟨by simpa using congrArg opField h, by simpa using congrArg kkField h⟩

theorem encode_of_and_FFFF {p : Word} (h : w &&& 0xFFFF#16 = p) : p = w := h.symm.trans BitVec.and_allOnes

theorem encodeNNN_of_and_F000 {op : Nibble} (h : w &&& 0xF000#16 = encodeNNN op 0) : encodeNNN op (addrField w) = w :=
  encodeNNN_of_op (opField_of_and_F000 h)

theorem encodeXKK_of_and_F000 {op : Nibble} (h : w &&& 0xF000#16 = encodeNNN op 0) :
    encodeXKK op (xField w) (kkField w) = w :=
  encodeXKK_of_op (opField_of_and_F000 h)

theorem encodeXYN_of_and_F000 {op : Nibble} (h : w &&& 0xF000#16 = encodeNNN op 0) :
    encodeXYN op (xField w) (yField w) (nField w) = w :=
  encodeXYN_of_op (opField_of_and_F000 h)

theorem encodeXYN_of_and_F00F {op n : Nibble} (h : w &&& 0xF00F#16 = encodeXYN op 0 0 n) :
    encodeXYN op (xField w) (yField w) n = w :=
  encodeXYN_of_op_n (fields_of_and_F00F h).1 (fields_of_and_F00F h).2

theorem encodeXKK_of_and_F0FF {op : Nibble} {kk : Byte} (h : w &&& 0xF0FF#16 = encodeXKK op 0 kk) :
    encodeXKK op (xField w) kk = w :=
  encodeXKK_of_op_kk (fields_of_and_F0FF h).1 (fields_of_and_F0FF h).2

/-- A word under a row's mask and pattern is the encoding of an instruction of that row: the row fixes some fields, and
the instruction takes the others from the word. -/
theorem exists_encode_of_row :
    ∀ r ∈ opcodeRows, w &&& r.mask = r.pattern → ∃ i : Instr, encode i = w ∧ i.mnemonic = r.mnemonic := by
  simp only [opcodeRows, List.forall_mem_append, List.forall_mem_cons, List.not_mem_nil, false_imp_iff,
    implies_true, and_true]
  refine ⟨⟨⟨⟨?_, ?_, ?_, ?_, ?_, ?_, ?_, ?_, ?_⟩, ?_, ?_, ?_, ?_, ?_, ?_, ?_, ?_, ?_⟩, ?_, ?_, ?_, ?_, ?_, ?_, ?_⟩,
    ?_, ?_, ?_, ?_, ?_, ?_, ?_, ?_, ?_⟩ <;> intro h
  · exact ⟨.cls, encode_of_and_FFFF h, rfl⟩
  · exact ⟨.ret, encode_of_and_FFFF h, rfl⟩
  · exact ⟨.jp _, encodeNNN_of_and_F000 h, rfl⟩
  · exact ⟨.call _, encodeNNN_of_and_F000 h, rfl⟩
  · exact ⟨.seByte _ _, encodeXKK_of_and_F000 h, rfl⟩
  · exact ⟨.sneByte _ _, encodeXKK_of_and_F000 h, rfl⟩
  · exact ⟨.seReg _ _, encodeXYN_of_and_F00F h, rfl⟩
  · exact ⟨.ldByte _ _, encodeXKK_of_and_F000 h, rfl⟩
  · exact ⟨.addByte _ _, encodeXKK_of_and_F000 h, rfl⟩
  · exact ⟨.ldReg _ _, encodeXYN_of_and_F00F h, rfl⟩
  · exact ⟨.orReg _ _, encodeXYN_of_and_F00F h, rfl⟩
  · exact ⟨.andReg _ _, encodeXYN_of_and_F00F h, rfl⟩
  · exact ⟨.xorReg _ _, encodeXYN_of_and_F00F h, rfl⟩
  · exact ⟨.addReg _ _, encodeXYN_of_and_F00F h, rfl⟩
  · exact ⟨.subReg _ _, encodeXYN_of_and_F00F h, rfl⟩
  · exact ⟨.shr _ _, encodeXYN_of_and_F00F h, rfl⟩
  · exact ⟨.subnReg _ _, encodeXYN_of_and_F00F h, rfl⟩
  · exact ⟨.shl _ _, encodeXYN_of_and_F00F h, rfl⟩
  · exact ⟨.sneReg _ _, encodeXYN_of_and_F00F h, rfl⟩
  · exact ⟨.ldI _, encodeNNN_of_and_F000 h, rfl⟩
  · exact ⟨.jpV0 _, encodeNNN_of_and_F000 h, rfl⟩
  · exact ⟨.rnd _ _, encodeXKK_of_and_F000 h, rfl⟩
  · exact ⟨.drw _ _ _, encodeXYN_of_and_F000 h, rfl⟩
  · exact ⟨.skp _, encodeXKK_of_and_F0FF h, rfl⟩
  · exact ⟨.sknp _, encodeXKK_of_and_F0FF h, rfl⟩
  · exact ⟨.ldVxDt _, encodeXKK_of_and_F0FF h, rfl⟩
  · exact ⟨.ldVxK _, encodeXKK_of_and_F0FF h, rfl⟩
  · exact ⟨.ldDtVx _, encodeXKK_of_and_F0FF h, rfl⟩
  · exact ⟨.ldStVx _, encodeXKK_of_and_F0FF h, rfl⟩
  · exact ⟨.addI _, encodeXKK_of_and_F0FF h, rfl⟩
  · exact ⟨.ldF _, encodeXKK_of_and_F0FF h, rfl⟩
  · exact ⟨.ldB _, encodeXKK_of_and_F0FF h, rfl⟩
  · exact ⟨.ldIVx _, encodeXKK_of_and_F0FF h, rfl⟩
  · exact ⟨.ldVxI _, encodeXKK_of_and_F0FF h, rfl⟩

/-- Two rows over one word give instructions of one encoding, so one instruction, so one mnemonic. -/
theorem opcodeRow_unique {r q : OpcodeRow} (hr : r ∈ opcodeRows) (hq : q ∈ opcodeRows)
    (hwr : w &&& r.mask = r.pattern) (hwq : w &&& q.mask = q.pattern) : r = q := by
  obtain ⟨i, hi, hir⟩ := exists_encode_of_row r hr hwr
  obtain ⟨j, hj, hjq⟩ := exists_encode_of_row q hq hwq
  obtain rfl : i = j := encode_injective (hi.trans hj.symm)
  exact opcodeRow_eq_of_mnemonic hr hq (hir.symm.trans hjq)

end

open Laws.WordLegal in
/-- The model's own per-instruction lemmas, together. -/
theorem exists_row_of_encode (i : Instr) : Statement i :=
  match i with
  | .cls => cls | .ret => ret | .jp a => jp a | .call a => call a | .seByte x kk => seByte x kk
  | .sneByte x kk => sneByte x kk | .seReg x y => seReg x y | .ldByte x kk => ldByte x kk
  | .addByte x kk => addByte x kk | .ldReg x y => ldReg x y | .orReg x y => orReg x y | .andReg x y => andReg x y
  | .xorReg x y => xorReg x y | .addReg x y => addReg x y | .subReg x y => subReg x y | .shr x y => shr x y
  | .subnReg x y => subnReg x y | .shl x y => shl x y | .sneReg x y => sneReg x y | .ldI a => ldI a
  | .jpV0 a => jpV0 a | .rnd x kk => rnd x kk | .drw x y n => drw x y n | .skp x => skp x | .sknp x => sknp x
  | .ldVxDt x => ldVxDt x | .ldVxK x => ldVxK x | .ldDtVx x => ldDtVx x | .ldStVx x => ldStVx x | .addI x => addI x
  | .ldF x => ldF x | .ldB x => ldB x | .ldIVx x => ldIVx x | .ldVxI x => ldVxI x

/-- A word that decodes is the encoding of an instruction, and so under its row. -/
theorem decode_of_no_row {w : Word} (h : ∀ r ∈ opcodeRows, w &&& r.mask ≠ r.pattern) :
    decode w = .error (.unknown w) := by
  cases hd : decode w with
  | error e => rw [(decode_eq_error.1 hd).2]
  | ok i =>
    obtain ⟨r, hr, -, hw⟩ := exists_row_of_encode i
    rw [encode_of_decode hd] at hw
    exact absurd hw (h r hr)

/-- Settles O5: a row gives an encoding, which decodes to its instruction; and no two rows cover one word. -/
theorem decodeFindsTheOneRowThatCovers : Obligations.DecodeFindsTheOneRowThatCovers := by
  refine fun w => ⟨fun r hr q hq => opcodeRow_unique hr hq, fun r hr hw => ?_, decode_of_no_row⟩
  obtain ⟨i, rfl, hm⟩ := exists_encode_of_row r hr hw
  exact ⟨i, decode_encode i, hm⟩

end Sys2Proof
end

section
/-! The words that are no instruction, family by family (rule R87). -/

namespace Sys2Proof

variable (w : Word)

theorem ite_some_eq_none_iff {α : Type} {c : Prop} [Decidable c] {a : α} {o : Option α} :
    (if c then some a else o) = none ↔ ¬c ∧ o = none := by
  split <;> simp_all

theorem decodeSystem_eq_none_iff :
    decodeSystem w = none ↔ addrField w ≠ 0x0E0#12 ∧ addrField w ≠ 0x0EE#12 := by
  simp [decodeSystem, ite_some_eq_none_iff]

theorem decodeAlu_eq_none_iff :
    decodeAlu w = none ↔ nField w ∈ ([0x8, 0x9, 0xA, 0xB, 0xC, 0xD, 0xF] : List Nibble) := by
  have hlist : ∀ n : Nibble, n ∈ ([0x8, 0x9, 0xA, 0xB, 0xC, 0xD, 0xF] : List Nibble) ↔
      n.toNat ∉ [0x0, 0x1, 0x2, 0x3, 0x4, 0x5, 0x6, 0x7, 0xE] := by decide
  rw [hlist]
  unfold decodeAlu
  split <;> simp_all

theorem decodeKeypad_eq_none_iff : decodeKeypad w = none ↔ kkField w ∉ ([0x9E, 0xA1] : List Byte) := by
  simp [decodeKeypad, ite_some_eq_none_iff]

theorem decodeMisc_eq_none_iff :
    decodeMisc w = none ↔ kkField w ∉ ([0x07, 0x0A, 0x15, 0x18, 0x1E, 0x29, 0x33, 0x55, 0x65] : List Byte) := by
  simp [decodeMisc, ite_some_eq_none_iff]

/-- Settles O6: a family without a second level has no illegal word, and the others have those of their second level. -/
theorem illegalWordsAreTheListedOnes : Obligations.IllegalWordsAreTheListedOnes := by
  intro w
  have hillegal : decode w = .error (.unknown w) ↔ decodeFamily w = none := by simp [decode_eq_error]
  rw [hillegal, ← decodeSystem_eq_none_iff, ← decodeAlu_eq_none_iff, ← decodeKeypad_eq_none_iff,
    ← decodeMisc_eq_none_iff]
  unfold decodeFamily
  split <;> rename_i hop
  case h_17 =>
    have hlt : (opField w).toNat < 16 := (opField w).isLt
    interval_cases (opField w).toNat <;> contradiction
  all_goals simp [BitVec.toNat_eq (x := opField w), hop]

end Sys2Proof
end

section
/-! What an instruction does, said once: it raises the fault of its handler in the table of rule R211 if there is one,
and otherwise completes with one next state. Every statement about all instructions is derived from this. -/

namespace Sys2Proof.Machine

/-- The next state of an instruction, where its handler raises no fault (rules R120 to R196). -/
def State.completed (s : State) : Instr → State
  | .cls => (s.setFb clearBuffer).advance
  | .ret => { s with sp := ⟨s.sp.val - 1, by omega⟩, pc := s.stack[s.sp.val - 1] + 2#16 }
  | .jp addr => s.setPc (addrOperand Config.pcWidth addr)
  | .call addr =>
    { s with
      stack := s.stack.setIfInBounds s.sp.val s.pc, sp := s.sp + 1, pc := addrOperand Config.pcWidth addr }
  | .seByte x kk => s.skipIf (s.getV x == kk)
  | .sneByte x kk => s.skipIf (s.getV x != kk)
  | .seReg x y => s.skipIf (s.getV x == s.getV y)
  | .ldByte x kk => (s.setV x kk).advance
  | .addByte x kk => (s.setV x (s.getV x + kk)).advance
  | .ldReg x y => (s.setV x (s.getV y)).advance
  | .orReg x y => (s.setV x (s.getV x ||| s.getV y)).advance
  | .andReg x y => (s.setV x (s.getV x &&& s.getV y)).advance
  | .xorReg x y => (s.setV x (s.getV x ^^^ s.getV y)).advance
  | .addReg x y =>
    (s.writeResultAndFlag true x (s.getV x + s.getV y) (carry (s.getV x) (s.getV y))).advance
  | .subReg x y =>
    (s.writeResultAndFlag true x (s.getV x - s.getV y) (noBorrow (s.getV x) (s.getV y))).advance
  | .shr x _ => (s.writeResultAndFlag true x (s.getV x >>> 1) (shiftedOutRight (s.getV x))).advance
  | .subnReg x y =>
    (s.writeResultAndFlag true x (s.getV y - s.getV x) (noBorrow (s.getV y) (s.getV x))).advance
  | .shl x _ => (s.writeResultAndFlag true x (s.getV x <<< 1) (shiftedOutLeft (s.getV x))).advance
  | .sneReg x y => s.skipIf (s.getV x != s.getV y)
  | .ldI addr => (s.setI (addrOperand Config.iWidth addr)).advance
  | .jpV0 addr => s.setPc (addrOperand Config.pcWidth addr + s.wideV Config.pcWidth 0)
  | .rnd x kk => ((s.setRng (Config.rngStep s.rng)).setV x (Config.rngStep s.rng &&& kk)).advance
  | .drw x y n =>
    let drawn := Canvas.drawRows ⟨s.fb, false⟩ (s.getV x).toNat (s.getV y).toNat (spriteRows s.mem s.base n.toNat)
    ((s.setFb drawn.fb).setFlag drawn.hit).advance
  | .skp x => s.skipIf (s.keyDown (s.getV x))
  | .sknp x => s.skipIf (!s.keyDown (s.getV x))
  | .ldVxDt x => (s.setV x s.dt).advance
  | .ldVxK x => s.takeKey x
  | .ldDtVx x => (s.setDt (s.getV x)).advance
  | .ldStVx x => (s.setSt (s.getV x)).advance
  | .addI x => (s.setI (s.i + s.wideV Config.iWidth x)).advance
  | .ldF x => (s.setI (BitVec.ofNat Config.iWidth Config.fontGlyphBytes * s.wideV Config.iWidth x)).advance
  | .ldB x => (s.setMem (s.mem.writeBytes s.base (bcdBytes (s.getV x)))).advance
  | .ldIVx x => (s.setMem (s.mem.writeBytes s.base (s.regBlock (storeCount x)))).advance
  | .ldVxI x => (s.loadBlock s.base x.toNat).advance

/-! ## The fault table's entries -/

section
variable {s : State} {count : Nat}

theorem dataFault_eq_none_iff : dataFault s count = none ↔ count = 0 ∨ s.i.toNat + count - 1 ≤ 0xFFF := by
  simp only [dataFault, ite_eq_right_iff, reduceCtorEq, imp_false]
  omega

theorem dataFault_of_outside (h : 1 ≤ count ∧ s.i.toNat + count - 1 > 0xFFF) :
    dataFault s count = some (.memoryFault (if s.i.toNat > 0xFFF then s.i.toNat else 0x1000)) := if_pos h

theorem inMemory_of_dataFault_eq_none (h : dataFault s count = none) : count = 0 ∨ s.base + count ≤ 4096 := by
  rw [dataFault_eq_none_iff] at h
  simp only [State.base]
  omega

/-- The lowest effective address above 0xFFF, as the table and as the range guard write it. -/
theorem guardRange_of_dataFault {f : Fault} (t : State) (h : dataFault s count = some f) :
    guardRange s.base count (.next t) = .fault f := by
  have hout : 1 ≤ count ∧ s.i.toNat + count - 1 > 0xFFF := by
    by_contra hin
    simp [dataFault, hin] at h
  rw [dataFault_of_outside hout] at h
  rw [guardRange_of_outside _ (by simp only [State.base]; omega), ← Option.some.inj h, State.base]
  split <;> congr 2 <;> omega

end

/-! ## The guarded operations -/

theorem exec_skp (x : Reg) (s : State) :
    exec (.skp x) s = s.guardKey x fun k => .next (s.skipIf (s.keyDown k)) := rfl

theorem exec_sknp (x : Reg) (s : State) :
    exec (.sknp x) s = s.guardKey x fun k => .next (s.skipIf (!s.keyDown k)) := rfl

theorem exec_ret_of_pos {s : State} (h : s.sp.val ≠ 0) : exec .ret s = .next (s.completed .ret) := by
  rw [exec, execRet, State.pop_of_pos s h]
  rfl

theorem exec_call_of_lt {s : State} (addr : Addr12) (h : s.sp.val < 16) :
    exec (.call addr) s = .next (s.completed (.call addr)) := by
  have hsp : (⟨s.sp.val + 1, Nat.succ_lt_succ h⟩ : Fin 17) = s.sp + 1 :=
    Fin.ext (Fin.val_add_one_of_lt' (Nat.succ_lt_succ h)).symm
  have hstack : s.stack.set s.sp.val s.pc h = s.stack.setIfInBounds s.sp.val s.pc := by
    ext k hk
    rw [Vector.getElem_set, Vector.getElem_setIfInBounds]
  rw [exec, execCall, State.push_of_lt s _ h, hsp, hstack]
  rfl

/-! ## The two ways an instruction goes -/

section
variable {s : State} {i : Instr}

theorem exec_of_fault {f : Fault} (h : handlerFault s i = some f) : exec i s = .fault f := by
  cases i with
  | ret =>
    obtain ⟨hsp, hf⟩ := Option.ite_none_right_eq_some.1 h
    rw [← Option.some.inj hf, exec, execRet, State.pop_of_empty s hsp]
    rfl
  | call =>
    obtain ⟨hsp, hf⟩ := Option.ite_none_right_eq_some.1 h
    rw [← Option.some.inj hf, exec, execCall, State.push_of_full s _ hsp]
    rfl
  | skp =>
    obtain ⟨hkey, hf⟩ := Option.ite_none_right_eq_some.1 h
    rw [← Option.some.inj hf, exec_skp, State.guardKey_of_no_key _ hkey]
  | sknp =>
    obtain ⟨hkey, hf⟩ := Option.ite_none_right_eq_some.1 h
    rw [← Option.some.inj hf, exec_sknp, State.guardKey_of_no_key _ hkey]
  | drw | ldB | ldIVx | ldVxI => exact guardRange_of_dataFault _ h
  | _ => cases h

theorem exec_of_no_fault (h : handlerFault s i = none) : exec i s = .next (s.completed i) := by
  cases i with
  | ret => exact exec_ret_of_pos (by simpa [handlerFault] using h)
  | call addr =>
    have hsp : s.sp.val ≠ 16 := by simpa [handlerFault] using h
    exact exec_call_of_lt addr (by omega)
  | skp => rw [exec_skp, State.guardKey_of_key _ (by simpa [handlerFault] using h)]; rfl
  | sknp => rw [exec_sknp, State.guardKey_of_key _ (by simpa [handlerFault] using h)]; rfl
  | drw | ldB | ldIVx | ldVxI => exact guardRange_of_inside _ (inMemory_of_dataFault_eq_none h)
  | _ => rfl

theorem exec_eq_next_iff {t : State} : exec i s = .next t ↔ handlerFault s i = none ∧ t = s.completed i := by
  cases h : handlerFault s i with
  | none => simp [exec_of_no_fault h, eq_comm]
  | some f => simp [exec_of_fault h]

theorem exec_eq_fault_iff {f : Fault} : exec i s = .fault f ↔ handlerFault s i = some f := by
  cases h : handlerFault s i with
  | none => simp [exec_of_no_fault h]
  | some g => simp [exec_of_fault h]

end
end Sys2Proof.Machine
end

section
/-! What a step does, said once: which fault it raises, and what comes of it otherwise (rules R100 to R104, R211,
R217). -/

namespace Sys2Proof.Machine

section
variable {s : State}

theorem faultCondition_outside (h : 0xFFE < s.pc.toNat) : faultCondition s = some (.memoryFault s.pc.toNat) := if_pos h

theorem faultCondition_unknown {e : DecodeError} (h : s.pc.toNat ≤ 0xFFE) (hd : decode s.fetchWord = .error e) :
    faultCondition s = some (.unknownInstruction s.fetchWord) := by
  rw [State.fetchWord] at hd
  simp [faultCondition, Nat.not_lt.2 h, hd, State.fetchWord]

theorem faultCondition_decoded {i : Instr} (h : s.pc.toNat ≤ 0xFFE) (hd : decode s.fetchWord = .ok i) :
    faultCondition s = handlerFault s i := by
  rw [State.fetchWord] at hd
  simp [faultCondition, Nat.not_lt.2 h, hd]

theorem cycle_eq_fault_iff {f : Fault} : cycle s = .fault f ↔ faultCondition s = some f := by
  rcases cycle_cases s with ⟨hpc, hc⟩ | ⟨hpc, ⟨e, hd⟩, hc⟩ | ⟨hpc, i, hd, hc⟩
  · simp [hc, faultCondition_outside hpc]
  · simp [hc, faultCondition_unknown hpc hd]
  · rw [hc, faultCondition_decoded hpc hd, exec_eq_fault_iff]

theorem cycle_eq_next_iff {t : State} :
    cycle s = .next t ↔
      s.pc.toNat ≤ 0xFFE ∧ ∃ i, decode s.fetchWord = .ok i ∧ handlerFault s i = none ∧ t = s.completed i := by
  rcases cycle_cases s with ⟨hpc, hc⟩ | ⟨hpc, ⟨e, hd⟩, hc⟩ | ⟨hpc, i, hd, hc⟩
  · simp [hc, Nat.not_le.2 hpc]
  · simp [hc, hd]
  · simp [hc, hd, hpc, exec_eq_next_iff]

theorem faultCondition_eq_none_iff : faultCondition s = none ↔ Safe (cycle s) := by
  rcases cycle_next_or_fault s with ⟨-, t, -, -, hc⟩ | ⟨f, hc⟩
  · have hne : ∀ f, faultCondition s ≠ some f := fun f hf => by simp [cycle_eq_fault_iff.2 hf] at hc
    simp [Safe, hc, Option.eq_none_iff_forall_ne_some, hne]
  · simp [Safe, hc, cycle_eq_fault_iff.1 hc]

end

/-! ## The statements -/

/-- Settles O12: a step is a cycle on the state in which the host has taken its turn. -/
theorem stepFaultsExactlyWhereTheTableSays : Obligations.StepFaultsExactlyWhereTheTableSays :=
  ⟨fun _ _ => cycle_eq_fault_iff, fun _ => faultCondition_eq_none_iff⟩

/-- Settles O13: the table reads `pc`, memory, the registers and `sp`, none of which a tick, a sample or a turn
changes (rule R216). -/
theorem faultIsRaisedAgain : Obligations.FaultIsRaisedAgain := by
  intro s f h n k p m
  have hsame : faultCondition ({ (State.ticks n s).withKeys k with pending := p, turn := m } : State).beginTurn =
      faultCondition s.beginTurn := rfl
  exact cycle_eq_fault_iff.2 (hsame.trans (cycle_eq_fault_iff.1 h))

theorem step_of_decoded {s : State} {i : Instr} (hpc : s.pc.toNat ≤ 0xFFE) (hd : decode s.fetchWord = .ok i) :
    step s = exec i s.beginTurn :=
  cycle_of_fetchInstr (State.fetchInstr_decoded (s := s.beginTurn) hpc hd)

/-- Settles O9: the host's turn leaves `pc` and memory as they were, so the word fetched after it is the word before
it. -/
theorem stepRunsTheDecodedInstruction : Obligations.StepRunsTheDecodedInstruction := fun _ _ => step_of_decoded

/-- Settles O11: a row over the fetched word is the only one, and gives the instruction the word decodes to. -/
theorem stepRunsTheRowThatCoversOrFaults : Obligations.StepRunsTheRowThatCoversOrFaults := by
  refine fun s hpc => ⟨fun r hr hw => ⟨fun q hq hwq => opcodeRow_unique hq hr hwq hw, ?_⟩, fun hno => ?_⟩
  · obtain ⟨i, hi, hm⟩ := exists_encode_of_row r hr hw
    exact ⟨i, hm, hi, step_of_decoded hpc (hi ▸ decode_encode i)⟩
  · exact cycle_eq_fault_iff.2 (faultCondition_unknown (s := s.beginTurn) hpc (decode_of_no_row hno))

end Sys2Proof.Machine
end

section
/-! The invariants of the machine, each kept by every step (rules R24, R35; log entry 19). -/

namespace Sys2Proof.Machine

/-- A property that the host's turn keeps, and every instruction that completes, is kept by every step. -/
theorem step_keeps {P : State → Prop} (hturn : ∀ s, P s → P s.beginTurn)
    (hexec : ∀ s i, s.pc.toNat ≤ 0xFFE → handlerFault s i = none → P s → P (s.completed i)) :
    ∀ s t, P s → step s = .next t → P t := by
  intro s t hs hstep
  obtain ⟨hpc, i, -, hno, rfl⟩ := cycle_eq_next_iff.1 hstep
  exact hexec s.beginTurn i hpc hno (hturn s hs)

/-- `Fx0A` leaves the state as it was, or writes the key and takes the default advance (rule R192). -/
theorem State.takeKey_cases (s : State) (x : Reg) :
    (s.keys.last = none ∧ s.takeKey x = s) ∨
    ∃ k, s.keys.last = some k ∧ s.takeKey x = (s.setV x (k.setWidth 8)).advance := by
  cases h : s.keys.last with
  | none => exact .inl ⟨rfl, by simp [State.takeKey, State.keyLast, h]⟩
  | some k => exact .inr ⟨k, rfl, by simp [State.takeKey, State.keyLast, h]⟩

theorem State.takeKey_keeps {P : State → Prop} {s : State} (x : Reg) (hwait : P s)
    (htake : ∀ b, P (s.setV x b).advance) : P (s.takeKey x) := by
  rcases s.takeKey_cases x with ⟨-, e⟩ | ⟨k, -, e⟩
  · rwa [e]
  · rw [e]
    exact htake _

section
variable {s : State} {i : Instr}

/-! ## Memory and display -/

/-- Only the two instructions that store change memory, and they do so inside it. -/
theorem completed_memoryCanonical (h : handlerFault s i = none) (hm : s.MemoryCanonical) :
    (s.completed i).MemoryCanonical := by
  cases i with
  | ldB | ldIVx =>
    have hin := inMemory_of_dataFault_eq_none h
    refine Memory.writeBytes_wf s.base _ hm (.inl ?_)
    simp [storeCount]
    omega
  | ldVxK x => exact State.takeKey_keeps (P := State.MemoryCanonical) x hm fun _ => hm
  | _ => exact hm

/-- Only the clear and the draw change the display. -/
theorem completed_cellsOnOrOff (hc : s.CellsOnOrOff) : (s.completed i).CellsOnOrOff := by
  cases i with
  | cls => exact cellsLegal_clearBuffer
  | drw => exact cellsLegal_drawRows (c := ⟨s.fb, false⟩) _ _ _ hc
  | ldVxK x => exact State.takeKey_keeps (P := State.CellsOnOrOff) x hc fun _ => hc
  | _ => exact hc

/-! ## `pc` and the call stack -/

/-- Neither the default advance nor a skip leaves the range of rule R24 from an address that can be fetched at. -/
theorem toNat_add_le_of_fetchable {a b : Word} (ha : a.toNat ≤ 0xFFE) (hb : b.toNat ≤ 4) :
    (a + b).toNat ≤ 0x10FE := by
  rw [BitVec.toNat_add]
  omega

theorem State.skipIf_pc_le (hpc : s.pc.toNat ≤ 0xFFE) (c : Bool) : (s.skipIf c).pc.toNat ≤ 0x10FE :=
  toNat_add_le_of_fetchable hpc (by cases c <;> decide)

theorem completed_pc_le (hpc : s.pc.toNat ≤ 0xFFE) (hr : s.PcInRange) : (s.completed i).pc.toNat ≤ 0x10FE := by
  obtain ⟨-, hstack⟩ := hr
  have hadvance : (s.pc + 2#16).toNat ≤ 0x10FE := toNat_add_le_of_fetchable hpc (by decide)
  cases i with
  | ret => exact toNat_add_le_of_fetchable (hstack ⟨s.sp.val - 1, by omega⟩) (by decide)
  | jp addr | call addr =>
    have := addr.isLt
    exact (addrOperand_toNat addr).trans_le (by omega)
  | jpV0 addr =>
    have := addr.isLt
    have := (s.getV 0).isLt
    exact (s.toNat_addrOperand_add_wideV addr 0).trans_le (by omega)
  | seByte | sneByte | seReg | sneReg | skp | sknp => exact s.skipIf_pc_le hpc _
  | ldVxK x =>
    exact State.takeKey_keeps (P := fun t => t.pc.toNat ≤ 0x10FE) x (hpc.trans (by decide)) fun _ => hadvance
  | _ => exact hadvance

/-- Only a call writes a stack entry, and it writes the address it was fetched at. -/
theorem completed_stack_le (hpc : s.pc.toNat ≤ 0xFFE) (hr : s.PcInRange) (k : Fin 16) :
    (s.completed i).stack[k].toNat ≤ 0xFFE := by
  obtain ⟨-, hstack⟩ := hr
  cases i with
  | call addr =>
    change (s.stack.setIfInBounds s.sp.val s.pc)[k.val].toNat ≤ 0xFFE
    rw [Vector.getElem_setIfInBounds]
    split
    · exact hpc
    · exact hstack k
  | ldVxK x =>
    exact State.takeKey_keeps (P := fun t => t.stack[k].toNat ≤ 0xFFE) x (hstack k) fun _ => hstack k
  | _ => exact hstack k

end

/-! ## The statements -/

/-- Settles O15: a store that completes lies inside memory, and a write inside memory keeps the canonical form. -/
theorem stepKeepsMemoryCanonical : Obligations.StepKeepsMemoryCanonical :=
  step_keeps (fun _ hs => hs) fun _ _ _ hno hs => completed_memoryCanonical hno hs

/-- Settles O16: the clear and the draw are the only writers of the display, and each keeps the cells on or off. -/
theorem stepKeepsCellsOnOrOff : Obligations.StepKeepsCellsOnOrOff :=
  step_keeps (fun _ hs => hs) fun _ _ _ _ hs => completed_cellsOnOrOff hs

/-- Settles O17: an instruction is fetched at `pc` at most 0xFFE, so a call pushes such an address; a return, a skip
and the default advance add at most 4 to one, and a jump goes at most to 0xFFF + 0xFF. -/
theorem stepKeepsPcInRange : Obligations.StepKeepsPcInRange :=
  step_keeps (fun _ hs => hs) fun _ _ hpc _ hs => ⟨completed_pc_le hpc hs, completed_stack_le hpc hs⟩

/-- Settles O18: memory without a listed cell, a cleared display, `pc` at 0x200 and a stack of zeroes. -/
theorem resetMeetsTheInvariants : Obligations.ResetMeetsTheInvariants :=
  ⟨State.reset_memory_wf, cellsLegal_clearBuffer, by decide⟩

end Sys2Proof.Machine
end

section
/-! A sprite as the list of its bits, each with its coordinates. At most 32 rows of 8 bits never meet on a surface of 64
by 32, so each cell is flipped at most once, and from its value before the draw (rules R180, R182, R183). -/

namespace Sys2Proof.Machine

/-- A bit of a sprite and the coordinates it is drawn at, not yet reduced modulo 64 and 32. -/
structure SpriteBit where
  x   : Nat
  y   : Nat
  bit : Bool

/-- The coordinates name the cell the bit is drawn at (rule R180). -/
def SpriteBit.covers (p : SpriteBit) (cx cy : Nat) : Prop := cx % 64 = p.x % 64 ∧ cy % 32 = p.y % 32

/-- The bits of a row, most significant first (rule R182). -/
def rowBits (x y : Nat) (row : Byte) : List SpriteBit :=
  (List.range 8).map fun k => ⟨x + k, y, row.getLsbD (7 - k)⟩

/-- The bits of the rows of a sprite from a row of the display downward (rule R182). -/
def spriteBits (x : Nat) : Nat → List Byte → List SpriteBit
  | _, [] => []
  | y, row :: rows => rowBits x y row ++ spriteBits x (y + 1) rows

/-- The bits drawn one after the other. -/
def Canvas.drawBits (c : Canvas) (ps : List SpriteBit) : Canvas := ps.foldl (fun c p => c.drawBit p.x p.y p.bit) c

/-! ## Drawing rows is drawing bits -/

theorem Canvas.drawRow_eq (c : Canvas) (x y : Nat) (row : Byte) : c.drawRow x y row = c.drawBits (rowBits x y row) := by
  rw [Canvas.drawRow, Canvas.drawBits, rowBits, List.foldl_map]

theorem Canvas.drawRows_eq (c : Canvas) (x y : Nat) (rows : List Byte) :
    c.drawRows x y rows = c.drawBits (spriteBits x y rows) := by
  induction rows generalizing c y with
  | nil => rfl
  | cons row rows ih =>
    rw [Canvas.drawRows, ih, Canvas.drawRow_eq, spriteBits]
    exact List.foldl_append.symm

/-! ## The bits of a sprite -/

theorem mem_rowBits {x y : Nat} {row : Byte} {p : SpriteBit} :
    p ∈ rowBits x y row ↔ ∃ k < 8, p = ⟨x + k, y, row.getLsbD (7 - k)⟩ := by
  simp [rowBits, eq_comm]

theorem mem_spriteBits {x y : Nat} {rows : List Byte} {p : SpriteBit} :
    p ∈ spriteBits x y rows ↔ ∃ r, ∃ h : r < rows.length, ∃ k < 8, p = ⟨x + k, y + r, rows[r].getLsbD (7 - k)⟩ := by
  induction rows generalizing y with
  | nil => simp [spriteBits]
  | cons row rows ih =>
    rw [spriteBits, List.mem_append, mem_rowBits, ih]
    constructor
    · rintro (⟨k, hk, rfl⟩ | ⟨r, hr, k, hk, rfl⟩)
      · exact ⟨0, by simp, k, hk, rfl⟩
      · exact ⟨r + 1, by simpa using hr, k, hk, by simp [Nat.add_assoc, Nat.add_comm 1]⟩
    · rintro ⟨_ | r, hr, k, hk, rfl⟩
      · exact .inl ⟨k, hk, rfl⟩
      · exact .inr ⟨r, by simpa using hr, k, hk, by simp [Nat.add_assoc, Nat.add_comm 1]⟩

/-- No two bits of the list are drawn at one cell. -/
def Separate (ps : List SpriteBit) : Prop := ps.Pairwise fun p q => ¬p.covers q.x q.y

theorem separate_rowBits (x y : Nat) (row : Byte) : Separate (rowBits x y row) := by
  rw [Separate, rowBits, List.pairwise_map]
  refine List.nodup_range.pairwise_of_forall_ne ?_
  intro j hj k hk hne hcov
  rw [List.mem_range] at hj hk
  have : (x + k) % 64 = (x + j) % 64 := hcov.1
  omega

theorem separate_spriteBits (x y : Nat) {rows : List Byte} (h : rows.length ≤ 32) :
    Separate (spriteBits x y rows) := by
  induction rows generalizing y with
  | nil => exact .nil
  | cons row rows ih =>
    rw [List.length_cons] at h
    refine List.pairwise_append.2 ⟨separate_rowBits x y row, ih (y + 1) (by omega), ?_⟩
    intro p hp q hq hcov
    obtain ⟨j, hj, rfl⟩ := mem_rowBits.1 hp
    obtain ⟨r, hr, k, hk, rfl⟩ := mem_spriteBits.1 hq
    have : (y + 1 + r) % 32 = y % 32 := hcov.2
    omega

/-! ## Cells after the draw -/

theorem getCell_drawBit_of_not_covers {c : Canvas} {p : SpriteBit} {cx cy : Nat} (h : ¬p.covers cx cy) :
    getCell (c.drawBit p.x p.y p.bit).fb cx cy = getCell c.fb cx cy := by
  rw [getCell_drawBit, if_neg fun hcov => h hcov.2]

theorem getCell_drawBits_of_not_covers {c : Canvas} {ps : List SpriteBit} {cx cy : Nat}
    (h : ∀ p ∈ ps, ¬p.covers cx cy) : getCell (c.drawBits ps).fb cx cy = getCell c.fb cx cy := by
  induction ps generalizing c with
  | nil => rfl
  | cons p ps ih =>
    rw [List.forall_mem_cons] at h
    exact (ih h.2).trans (getCell_drawBit_of_not_covers h.1)

theorem getCell_drawBits_of_covers {c : Canvas} {ps : List SpriteBit} {cx cy : Nat} (hsep : Separate ps)
    {p : SpriteBit} (hp : p ∈ ps) (hcov : p.covers cx cy) :
    getCell (c.drawBits ps).fb cx cy = if p.bit then getCell c.fb cx cy ^^^ 0xFF#8 else getCell c.fb cx cy := by
  induction ps generalizing c with
  | nil => cases hp
  | cons q ps ih =>
    obtain ⟨hq, hsep⟩ := List.pairwise_cons.1 hsep
    rcases List.mem_cons.1 hp with rfl | hp
    · have hrest : ∀ q ∈ ps, ¬q.covers cx cy := fun q hqps hqcov =>
        hq q hqps ⟨hqcov.1.symm.trans hcov.1, hqcov.2.symm.trans hcov.2⟩
      refine (getCell_drawBits_of_not_covers hrest).trans ?_
      simp [getCell_drawBit, hcov.1, hcov.2]
    · have hqcov : ¬q.covers cx cy := fun hqcov =>
        hq p hp ⟨hcov.1.symm.trans hqcov.1, hcov.2.symm.trans hqcov.2⟩
      rw [← getCell_drawBit_of_not_covers (c := c) hqcov]
      exact ih hsep hp

/-- A collision is a set bit over a cell lit before the draw (rule R182). -/
theorem hit_drawBits_iff {c : Canvas} {ps : List SpriteBit} (hsep : Separate ps) :
    (c.drawBits ps).hit = true ↔ c.hit = true ∨ ∃ p ∈ ps, p.bit = true ∧ getCell c.fb p.x p.y = 0xFF#8 := by
  induction ps generalizing c with
  | nil => simp [Canvas.drawBits]
  | cons q ps ih =>
    obtain ⟨hq, hsep⟩ := List.pairwise_cons.1 hsep
    have hcells : ∀ p ∈ ps, getCell (c.drawBit q.x q.y q.bit).fb p.x p.y = getCell c.fb p.x p.y :=
      fun p hp => getCell_drawBit_of_not_covers (hq p hp)
    refine (ih hsep).trans ?_
    rw [hit_drawBit, List.exists_mem_cons_iff, ← or_assoc]
    refine or_congr (by simp) (exists_congr fun p => and_congr_right fun hp => ?_)
    rw [hcells p hp]

end Sys2Proof.Machine
end

section
/-! The write map (rule R41): a frame for each operation, and from these the frame of each instruction. -/

namespace Sys2Proof.Machine

/-! ## Registers written by `Fx65` -/

theorem mem_firstRegs_of_lt {count : Nat} {r : Reg} (h : r.toNat < count) : r ∈ firstRegs count :=
  List.mem_map.2 ⟨r.toNat, List.mem_range.2 h, by simp⟩

theorem toNat_lt_of_mem_firstRegs {count : Nat} {r : Reg} (h : r ∈ firstRegs count) : r.toNat < count := by
  obtain ⟨k, hk, rfl⟩ := List.mem_map.1 h
  exact (Nat.mod_le k _).trans_lt (List.mem_range.1 hk)

/-! ## Frames of the operations

Each names the fields its operation writes; all others are those of the state before, by `frame_refl`. -/

section
variable (s : State)

theorem State.frame_refl (w : WriteSet) : Frame w s s where
  regs _ _ := rfl
  index _ := rfl
  sp _ := rfl
  stack _ _ := rfl
  delay _ := rfl
  sound _ := rfl
  random _ := rfl
  memory _ _ := rfl
  display _ _ _ := rfl
  inputs := ⟨rfl, rfl, rfl⟩

theorem State.frame_setDt (b : Byte) : Frame { delay := true } s (s.setDt b) :=
  { s.frame_refl { delay := true } with delay := nofun }

theorem State.frame_setSt (b : Byte) : Frame { sound := true } s (s.setSt b) :=
  { s.frame_refl { sound := true } with sound := nofun }

theorem State.frame_regs {regs : List Reg} {v : Vector Byte 16}
    (h : ∀ r, r ∉ regs → State.getV { s with v := v } r = s.getV r) : Frame { regs := regs } s { s with v := v } :=
  { s.frame_refl { regs := regs } with regs := h }

theorem State.frame_setRng_setV (r : Byte) (x : Reg) (b : Byte) :
    Frame { regs := [x], random := true } s ((s.setRng r).setV x b) :=
  { (s.setRng r).frame_setV x b with random := nofun }

/-- Whichever write is last, the two registers are the only ones written (rule R140). -/
theorem State.frame_writeResultAndFlag (l : Bool) (x : Reg) (r : Byte) (f : Bool) :
    Frame { regs := [x, 0xF#4] } s (s.writeResultAndFlag l x r f) := by
  have hregs : ∀ q, q ∉ [x, 0xF#4] → (s.writeResultAndFlag l x r f).getV q = s.getV q := by
    intro q hq
    obtain ⟨hx, hF⟩ : q ≠ x ∧ q ≠ 0xF#4 := by simpa using hq
    cases l with
    | true => rw [State.getV_writeResultAndFlag_flagLast, if_neg hF, if_neg hx]
    | false => rw [State.getV_writeResultAndFlag_resultLast, if_neg hx, if_neg hF]
  rw [State.writeResultAndFlag_others] at hregs ⊢
  exact s.frame_regs hregs

theorem State.frame_loadBlock (base count : Nat) :
    Frame { regs := firstRegs count } s (s.loadBlock base count) :=
  s.frame_regs fun r hr => (s.getV_loadBlock base count r).trans (if_neg fun h => hr (mem_firstRegs_of_lt h))

theorem State.frame_store {bytes : List Byte} {count : Nat} (h : bytes.length ≤ count) :
    Frame { stored := count } s (s.setMem (s.mem.writeBytes s.base bytes)) :=
  { s.frame_refl { stored := count } with
    memory := fun a ha => by
      have : ¬(s.base ≤ a ∧ a < s.base + bytes.length) := fun hin => ha ⟨hin.1, by
        have := hin.2
        simp only [State.base] at this ⊢
        omega⟩
      rw [State.setMem_mem, Memory.read_writeBytes, dif_neg this] }

theorem State.frame_setFb (f : FrameBuffer) : Frame { cells := fun _ _ => True } s (s.setFb f) :=
  { s.frame_refl { cells := fun _ _ => True } with display := fun _ _ h => absurd trivial h }

theorem State.frame_setFb_setFlag {f : FrameBuffer} {cells : Nat → Nat → Prop}
    (h : ∀ cx cy, ¬cells cx cy → getCell f cx cy = getCell s.fb cx cy) (hit : Bool) :
    Frame { regs := [0xF#4], cells := cells } s ((s.setFb f).setFlag hit) :=
  { (s.setFb f).frame_setV 0xF#4 (flagByte hit) with display := h }

/-! ## The draw -/

/-- The bits of the sprite `Dxyn` draws (rules R180, R182). -/
def State.sprite (x y : Reg) (n : Nibble) : List SpriteBit :=
  spriteBits (s.getV x).toNat (s.getV y).toNat (spriteRows s.mem s.base n.toNat)

variable {s} {x y : Reg} {n : Nibble}

theorem State.mem_sprite {p : SpriteBit} :
    p ∈ s.sprite x y n ↔ ∃ r k, r < n.toNat ∧ k < 8 ∧
      p = ⟨(s.getV x).toNat + k, (s.getV y).toNat + r, (s.mem.read (s.i.toNat + r)).getLsbD (7 - k)⟩ := by
  rw [State.sprite, mem_spriteBits]
  constructor
  · rintro ⟨r, hr, k, hk, rfl⟩
    exact ⟨r, k, by simpa using hr, hk, by rw [getElem_spriteRows]; rfl⟩
  · rintro ⟨r, k, hr, hk, rfl⟩
    exact ⟨r, by simpa using hr, k, hk, by rw [getElem_spriteRows]; rfl⟩

theorem State.separate_sprite : Separate (s.sprite x y n) :=
  separate_spriteBits _ _ (by rw [spriteRows_length]; omega)

theorem State.completed_drw :
    s.completed (.drw x y n) =
      ((s.setFb (Canvas.drawBits ⟨s.fb, false⟩ (s.sprite x y n)).fb).setFlag
        (Canvas.drawBits ⟨s.fb, false⟩ (s.sprite x y n)).hit).advance := by
  rw [State.completed, Canvas.drawRows_eq]
  rfl

theorem underSprite_of_covers {p : SpriteBit} (hp : p ∈ s.sprite x y n) {cx cy : Nat} (h : p.covers cx cy) :
    underSprite s x y n.toNat cx cy := by
  obtain ⟨r, k, hr, hk, rfl⟩ := State.mem_sprite.1 hp
  exact ⟨r, k, hr, hk, h⟩

theorem State.frame_draw :
    Frame { regs := [0xF#4], cells := underSprite s x y n.toNat } s (s.completed (.drw x y n)) := by
  rw [State.completed_drw]
  refine (s.frame_setFb_setFlag (fun cx cy hout => ?_) _).advance
  exact getCell_drawBits_of_not_covers fun p hp hcov => hout (underSprite_of_covers hp hcov)

end

/-! ## The instructions -/

/-- Every instruction keeps to its row of the write map (rule R41). -/
theorem State.frame_completed (s : State) (i : Instr) : Frame (writeSet s i) s (s.completed i) := by
  cases i with
  | cls => exact (s.frame_setFb _).advance
  | ret => exact { s.frame_refl { sp := true } with sp := nofun }
  | call addr =>
    exact
      { s.frame_refl { sp := true, entry := true } with
        sp := nofun
        stack := fun k hk =>
          (Vector.getElem_setIfInBounds k.isLt).trans (if_neg (hk rfl).symm) }
  | jp | jpV0 => exact s.frame_setPc _
  | seByte | sneByte | seReg | sneReg | skp | sknp => exact s.frame_skipIf _
  | ldByte | addByte | ldReg | orReg | andReg | xorReg | ldVxDt => exact (s.frame_setV _ _).advance
  | addReg | subReg | shr | subnReg | shl => exact (s.frame_writeResultAndFlag true _ _ _).advance
  | ldI | addI | ldF => exact (s.frame_setI _).advance
  | rnd => exact (s.frame_setRng_setV _ _ _).advance
  | drw => exact State.frame_draw
  | ldVxK x =>
    exact State.takeKey_keeps (P := Frame { regs := [x] } s) x (s.frame_refl _) fun b => (s.frame_setV x b).advance
  | ldDtVx => exact (s.frame_setDt _).advance
  | ldStVx => exact (s.frame_setSt _).advance
  | ldB => exact (s.frame_store (bcdBytes_length _).le).advance
  | ldIVx => exact (s.frame_store (by rw [State.regBlock_length]; exact min_le_left _ _)).advance
  | ldVxI => exact (s.frame_loadBlock _ _).advance

theorem exec_frame {i : Instr} {s t : State} (h : exec i s = .next t) : Frame (writeSet s i) s t := by
  obtain ⟨-, rfl⟩ := exec_eq_next_iff.1 h
  exact s.frame_completed i

end Sys2Proof.Machine
end

section
/-! Rules of the whole machine: what is written (rules R22, R41, R106) and what is not read (rules R29, R223). -/

namespace Sys2Proof.Machine

/-! ## What is written -/

theorem State.frame_tick (s : State) : Frame { delay := true, sound := true } s s.tick :=
  { s.frame_refl { delay := true, sound := true } with delay := nofun, sound := nofun }

theorem State.load_eq_setMem (s : State) (bytes : List Byte) : s.load bytes = s.setMem (s.load bytes).mem := rfl

theorem State.read_load_outside (s : State) {bytes : List Byte} {a : Nat}
    (h : ¬(0x200 ≤ a ∧ a < 0x200 + bytes.length)) :
    (s.load bytes).mem.read a = s.mem.read a := by
  rw [State.load_mem, Memory.read_writeBytes, dif_neg h]

theorem Hardware.eq_of_stepWith_fault {h t : Hardware} {k : KeypadSample} {f : Fault}
    (hs : h.stepWith k = .next (t, .fault f)) : t = h := by
  obtain ⟨t', o, hs', -, -, -, -, hfault⟩ := stepEndsInOneOfThreeOutcomes h k
  obtain ⟨rfl, rfl⟩ : t = t' ∧ .fault f = o := by simpa [hs] using hs'
  exact hfault f rfl

/-- Settles O20: the frame of each instruction, of tick and of load. -/
theorem eachWriterWritesOnlyItsRow : Obligations.EachWriterWritesOnlyItsRow :=
  ⟨fun _ _ _ => exec_frame, fun _ _ _ _ => Hardware.eq_of_stepWith_fault, fun s => ⟨s.frame_tick, s.tick_pc⟩,
    fun s bytes => ⟨s.load_eq_setMem bytes, fun _ => s.read_load_outside⟩⟩

theorem writeSet_delay {i : Instr} (s : State) (h : ∀ x, i ≠ .ldDtVx x) : (writeSet s i).delay = false := by
  cases i with
  | ldDtVx x => exact absurd rfl (h x)
  | _ => rfl

theorem writeSet_sound {i : Instr} (s : State) (h : ∀ x, i ≠ .ldStVx x) : (writeSet s i).sound = false := by
  cases i with
  | ldStVx x => exact absurd rfl (h x)
  | _ => rfl

/-- A state whose inputs are those of a step on the ten components is given by its ten components. -/
theorem State.given_toHardware {u : State} {h : Hardware} {k : KeypadSample}
    (hin : u.keys = (h.given k).keys ∧ u.pending = (h.given k).pending ∧ u.turn = (h.given k).turn) :
    u.toHardware.given k = u := by
  obtain ⟨hkeys, hpending, hturn⟩ := hin
  cases u
  simp_all [Hardware.given]

/-- Settles O21: a step that executes an instruction keeps to its frame, and any other step changes nothing (rule
R106). -/
theorem stepLeavesTimersToFx15AndFx18 : Obligations.StepLeavesTimersToFx15AndFx18 := by
  intro h t k o hs
  obtain ⟨t', o', hs', hnext, -, hwait, -, hfault⟩ := stepEndsInOneOfThreeOutcomes h k
  obtain ⟨rfl, rfl⟩ : t = t' ∧ o = o' := by simpa [hs] using hs'
  cases o with
  | next =>
    obtain ⟨i, u, hi, hu, rfl⟩ := hnext rfl
    have hframe := exec_frame hu
    refine ⟨fun hne => hframe.delay (writeSet_delay _ fun x e => hne x (e ▸ hi)),
      fun hne => hframe.sound (writeSet_sound _ fun x e => hne x (e ▸ hi)), fun _ j hj => ?_,
      fun hne => absurd rfl hne⟩
    obtain rfl : i = j := Except.ok.inj (hi.symm.trans hj)
    rwa [State.given_toHardware hframe.inputs]
  | awaitingKey =>
    obtain rfl := hwait rfl
    exact ⟨fun _ => rfl, fun _ => rfl, nofun, fun _ => rfl⟩
  | fault f =>
    obtain rfl := hfault f rfl
    exact ⟨fun _ => rfl, fun _ => rfl, nofun, fun _ => rfl⟩

/-! ## The flag -/

theorem flagByte_zero_or_one (f : Bool) : flagByte f = 0#8 ∨ flagByte f = 1#8 := by
  cases f <;> decide

@[simp] theorem State.getV_flagReg_writeResultAndFlag (s : State) (x : Reg) (r : Byte) (f : Bool) :
    (s.writeResultAndFlag true x r f).advance.getV 0xF#4 = flagByte f := by
  rw [State.getV_advance, State.getV_writeResultAndFlag_flagLast, if_pos rfl]

theorem State.getV_flagReg_of_writesFlag (s : State) {i : Instr} (h : writesFlag i = true) :
    ∃ f, (s.completed i).getV 0xF#4 = flagByte f := by
  cases i with
  | addReg | subReg | shr | subnReg | shl => exact ⟨_, s.getV_flagReg_writeResultAndFlag _ _ _⟩
  | drw =>
    rw [State.completed_drw, State.getV_advance, State.getV_setFlag, if_pos rfl]
    exact ⟨_, rfl⟩
  | _ => cases h

/-- Settles O22: the six write a flag byte last; every other instruction leaves the registers outside its row, and the
row of `Fx65` is below `x`, so never `VF` (rule R22). -/
theorem flagIsWrittenByTheSix : Obligations.FlagIsWrittenByTheSix := by
  intro i s t h
  have hframe := exec_frame h
  obtain ⟨-, rfl⟩ := exec_eq_next_iff.1 h
  refine ⟨fun hw => ?_, fun _ hF => hframe.regs _ hF, ?_⟩
  · obtain ⟨f, hf⟩ := s.getV_flagReg_of_writesFlag hw
    rw [hf]
    exact flagByte_zero_or_one f
  · rintro x rfl
    refine hframe.regs _ fun hF => ?_
    have hlt : (0xF#4).toNat < x.toNat := toNat_lt_of_mem_firstRegs hF
    have := x.isLt
    simp at hlt
    omega

/-! ## What is not read -/

/-- An update that neither the fault nor the next state depends on passes through an instruction. -/
theorem exec_commutes {f : State → State} {i : Instr} {s : State} (hfault : handlerFault (f s) i = handlerFault s i)
    (hnext : (f s).completed i = f (s.completed i)) : exec i (f s) = mapNext f (exec i s) := by
  cases h : handlerFault s i with
  | none => rw [exec_of_no_fault h, exec_of_no_fault (hfault.trans h), hnext]; rfl
  | some g => rw [exec_of_fault h, exec_of_fault (hfault.trans h)]; rfl

/-- The one meaning that reads an input of the step outside the ten components. -/
theorem State.takeKey_commutes {f : State → State} {s : State} {x : Reg} (hkeys : (f s).keys = s.keys)
    (hset : ∀ b, ((f s).setV x b).advance = f (s.setV x b).advance) : (f s).takeKey x = f (s.takeKey x) := by
  rcases s.takeKey_cases x with ⟨hk, e⟩ | ⟨k, hk, e⟩
  · rw [e, State.takeKey, State.keyLast, hkeys, hk]
  · rw [e, State.takeKey, State.keyLast, hkeys, hk]
    exact hset _

/-- Settles O23: the fault and the next state of every other instruction are made of fields other than the sample (rule
R223). -/
theorem onlyThreeInstructionsReadTheKeypad : Obligations.OnlyThreeInstructionsReadTheKeypad := by
  intro i s k h
  refine exec_commutes (f := fun t => t.withKeys k) (by cases i <;> rfl) ?_
  cases i with
  | skp | sknp | ldVxK => cases h
  | _ => rfl

/-- Settles O24: the fault and the next state are made of fields other than `ST` (rule R29). -/
theorem noInstructionReadsTheSoundTimer : Obligations.NoInstructionReadsTheSoundTimer := by
  intro i s b h
  refine exec_commutes (f := fun t => t.setSt b) (by cases i <;> rfl) ?_
  cases i with
  | ldStVx x => exact absurd rfl (h x)
  | ldVxK x => exact State.takeKey_commutes (f := fun t => t.setSt b) rfl fun _ => rfl
  | _ => rfl

/-! ## The host's turn -/

/-- Subtraction of natural numbers stops at zero as a timer does (rule R220). -/
theorem timerAfter_toNat (n : Nat) (t : Byte) : (timerAfter n t).toNat = t.toNat - n := by
  have ht := t.isLt
  unfold timerAfter
  split
  next h => exact (Nat.sub_eq_zero_of_le h).symm
  next h =>
    have hn : (BitVec.ofNat 8 n).toNat = n := Nat.mod_eq_of_lt (by omega)
    rw [BitVec.toNat_sub_of_le (by rw [BitVec.le_def, hn]; omega), hn]

theorem State.ticks_zero (s : State) : State.ticks 0 s = s := by
  have h (t : Byte) : timerAfter 0 t = t := BitVec.eq_of_toNat_eq (timerAfter_toNat 0 t)
  simp [State.ticks, Hardware.ticks, h]

theorem State.ticks_succ (n : Nat) (s : State) : State.ticks (n + 1) s = (State.ticks n s).tick := by
  have h (t : Byte) : timerAfter (n + 1) t = tickTimer (timerAfter n t) :=
    BitVec.eq_of_toNat_eq (by rw [tickTimer_toNat, timerAfter_toNat, timerAfter_toNat, Nat.sub_add_eq])
  simp [State.ticks, State.tick, Hardware.ticks, Hardware.tick, h]

/-- The state at the instruction boundary: the turn used up and its sample handed over, the ticks still to come. -/
theorem State.frame_beginTurn (s : State) :
    Frame { delay := true, sound := true }
      { s with keys := s.nextTurn.sample, pending := s.pending.tail, turn := s.turn + 1 } s.beginTurn :=
  { State.frame_refl { s with keys := s.nextTurn.sample, pending := s.pending.tail, turn := s.turn + 1 }
      { delay := true, sound := true } with
    delay := nofun, sound := nofun }

/-- Announcing other turns, or counting them otherwise. -/
def State.announcing (p : List HostTurn) (m : Nat) (s : State) : State := { s with pending := p, turn := m }

theorem exec_announcing (i : Instr) (s : State) (p : List HostTurn) (m : Nat) :
    exec i (s.announcing p m) = mapNext (State.announcing p m) (exec i s) := by
  refine exec_commutes (f := State.announcing p m) (by cases i <;> rfl) ?_
  cases i with
  | ldVxK x => exact State.takeKey_commutes (f := State.announcing p m) rfl fun _ => rfl
  | _ => rfl

/-- Settles O10: a turn's ticks are calls of tick one after the other, and no meaning is made of the turns. -/
theorem hostTurnChangesTimersAndSampleOnly : Obligations.HostTurnChangesTimersAndSampleOnly :=
  ⟨fun s _ ht => ht ▸ ⟨s.frame_beginTurn, s.beginTurn_pc, rfl, rfl⟩, fun _ _ _ => State.nextTurn_of_announced,
    fun _ => State.nextTurn_of_free, State.ticks_zero, State.ticks_succ, exec_announcing⟩

end Sys2Proof.Machine
end

section
/-! Control flow: the skips on two registers, the call and the return (rules R120, R122, R125, R126). -/

namespace Sys2Proof.Machine

/-! ## The low nibble of families 0x5 and 0x9 (rule R85) -/

theorem decode_family5_illegal {x y : Reg} {n : Nibble} (h : n ≠ 0#4) :
    decode (encodeXYN 0x5#4 x y n) = .error (.unknown (encodeXYN 0x5#4 x y n)) :=
  decode_eq_error.2 ⟨by simp [decodeFamily, h], rfl⟩

theorem decode_family9_illegal {x y : Reg} {n : Nibble} (h : n ≠ 0#4) :
    decode (encodeXYN 0x9#4 x y n) = .error (.unknown (encodeXYN 0x9#4 x y n)) :=
  decode_eq_error.2 ⟨by simp [decodeFamily, h], rfl⟩

/-- Settles O30: a skip on equality of the two registers (rule R125). -/
theorem skipIfRegistersEqual : Obligations.SkipIfRegistersEqual := fun x y s =>
  ⟨decode_encode (.seReg x y), fun _ => decode_family5_illegal, _, exec_of_no_fault rfl,
    s.frame_completed (.seReg x y), s.toNat_pc_skipIf_eq (s.getV x) (s.getV y)⟩

/-- Settles O31: a skip on difference of the two registers (rule R126). -/
theorem skipIfRegistersDiffer : Obligations.SkipIfRegistersDiffer := fun x y s =>
  ⟨decode_encode (.sneReg x y), fun _ => decode_family9_illegal, _, exec_of_no_fault rfl,
    s.frame_completed (.sneReg x y), s.toNat_pc_skipIf_ne (s.getV x) (s.getV y)⟩

/-! ## Call and return -/

section
variable {s : State}

theorem State.sp_completed_call (addr : Addr12) (h : s.sp.val < 16) :
    (s.completed (.call addr)).sp.val = s.sp.val + 1 :=
  Fin.val_add_one_of_lt' (Nat.succ_lt_succ h)

theorem State.stack_completed_call (addr : Addr12) (h : s.sp.val < 16) :
    (s.completed (.call addr)).stack[s.sp.val] = s.pc :=
  (Vector.getElem_setIfInBounds h).trans (if_pos rfl)

end

/-- Settles O32: the entry at the old `sp` is the call's own address (rule R122). -/
theorem callPushesItsOwnAddress : Obligations.CallPushesItsOwnAddress := fun addr s =>
  ⟨fun h => ⟨_, exec_call_of_lt addr h, State.stack_completed_call addr h, State.sp_completed_call addr h,
      addrOperand_toNat addr, s.frame_completed (.call addr)⟩,
    fun h => exec_of_fault (if_pos h)⟩

/-- Settles O33: the entry below the old `sp`, plus 2 (rule R120). -/
theorem returnGoesTwoPastTheCall : Obligations.ReturnGoesTwoPastTheCall := fun s =>
  ⟨fun h => ⟨_, exec_ret_of_pos h, rfl, rfl, s.frame_completed .ret⟩, fun h => exec_of_fault (if_pos h)⟩

/-- Settles O34: the return pops the entry the call pushed. -/
theorem callThenReturnComesBack : Obligations.CallThenReturnComesBack := by
  intro addr s h
  have hcall := s.frame_completed (.call addr)
  have hpop : (s.completed (.call addr)).sp.val - 1 = s.sp.val := by
    rw [State.sp_completed_call addr h, Nat.add_sub_cancel]
  have hsp : ((s.completed (.call addr)).completed .ret).sp = s.sp := Fin.ext hpop
  have hpc : ((s.completed (.call addr)).completed .ret).pc = s.pc + 2#16 := by
    change (s.completed (.call addr)).stack[(s.completed (.call addr)).sp.val - 1] + 2#16 = _
    simp only [hpop, State.stack_completed_call addr h]
  exact ⟨_, _, exec_call_of_lt addr h, exec_ret_of_pos (by rw [State.sp_completed_call addr h]; nofun), hsp, hpc,
    { s.frame_refl { entry := true } with sp := fun _ => hsp, stack := hcall.stack }⟩

end Sys2Proof.Machine
end

section
/-! The ALU instructions that write a flag (rules R147 to R151). -/

namespace Sys2Proof.Machine

theorem toNat_flagByte (f : Bool) : (flagByte f).toNat = if f then 1 else 0 := by
  cases f <;> rfl

section
variable (s : State)

/-- The result where it is not written to `VF`, over which the flag lands (rule R140). -/
theorem State.getV_result {x : Reg} (hx : x ≠ 0xF#4) (r : Byte) (f : Bool) :
    (s.writeResultAndFlag true x r f).advance.getV x = r := by
  rw [State.getV_advance, State.getV_writeResultAndFlag_flagLast, if_neg hx, if_pos rfl]

theorem State.toNat_getV_flag (x : Reg) (r : Byte) (f : Bool) :
    ((s.writeResultAndFlag true x r f).advance.getV 0xF#4).toNat = if f then 1 else 0 := by
  rw [State.getV_flagReg_writeResultAndFlag, toNat_flagByte]

end

/-! ## The results and flags as numbers -/

theorem toNat_sub_eq_emod (a b : Byte) : ((a - b).toNat : Int) = ((a.toNat : Int) - b.toNat) % 256 := by
  have := a.isLt
  have := b.isLt
  rw [BitVec.toNat_sub]
  omega

theorem toNat_flag_shiftedOutRight (a : Byte) : (if shiftedOutRight a then 1 else 0) = a.toNat % 2 := by
  rw [shiftedOutRight, BitVec.getLsbD, Nat.testBit_zero]
  rcases Nat.mod_two_eq_zero_or_one a.toNat with h | h <;> simp [h]

theorem toNat_flag_shiftedOutLeft (a : Byte) : (if shiftedOutLeft a then 1 else 0) = a.toNat / 128 := by
  have := a.isLt
  rw [shiftedOutLeft, BitVec.getLsbD, Nat.testBit_eq_decide_div_mod_eq]
  have hbit : a.toNat / 128 = 0 ∨ a.toNat / 128 = 1 := by omega
  rcases hbit with h | h <;> simp [h]

/-! ## The statements -/

/-- Settles O39: the sum of bytes is the sum modulo 256, and the carry is that the sum of the numbers exceeds 0xFF
(rule R147). -/
theorem addSetsCarry : Obligations.AddSetsCarry := fun x y s =>
  ⟨_, exec_of_no_fault rfl, fun hx => by rw [State.completed, s.getV_result hx]; exact BitVec.toNat_add _ _,
    (s.toNat_getV_flag x _ _).trans (by simp [carry]), rfl, s.frame_completed (.addReg x y)⟩

/-- Settles O40: no borrow is that the minuend is at least the subtrahend (rules R148, R150). -/
theorem subtractSetsNoBorrow : Obligations.SubtractSetsNoBorrow := fun x y s =>
  ⟨⟨_, exec_of_no_fault rfl, fun hx => by rw [State.completed, s.getV_result hx, toNat_sub_eq_emod],
      (s.toNat_getV_flag x _ _).trans (by simp [noBorrow]), rfl, s.frame_completed (.subReg x y)⟩,
    ⟨_, exec_of_no_fault rfl, fun hx => by rw [State.completed, s.getV_result hx, toNat_sub_eq_emod],
      (s.toNat_getV_flag x _ _).trans (by simp [noBorrow]), rfl, s.frame_completed (.subnReg x y)⟩⟩

/-- Settles O41: a shift by one halves or doubles, and no meaning is made of `y` (rules R149, R151). -/
theorem shiftsMoveOneBitIntoTheFlag : Obligations.ShiftsMoveOneBitIntoTheFlag := fun x y s =>
  ⟨⟨_, exec_of_no_fault rfl, fun hx => by simp [State.completed, s.getV_result hx, Nat.shiftRight_one],
      (s.toNat_getV_flag x _ _).trans (toNat_flag_shiftedOutRight _), rfl, s.frame_completed (.shr x y)⟩,
    ⟨_, exec_of_no_fault rfl, fun hx => by
        simp [State.completed, s.getV_result hx, Nat.shiftLeft_eq, Nat.mul_comm],
      (s.toNat_getV_flag x _ _).trans (toNat_flag_shiftedOutLeft _), rfl, s.frame_completed (.shl x y)⟩,
    fun _ => ⟨rfl, rfl⟩⟩

end Sys2Proof.Machine
end

section
/-! The index register and memory: `Fx1E`, `Fx29`, `Fx33`, `Fx55`, `Fx65` (rules R161 to R165). -/

namespace Sys2Proof.Machine

/-! ## The index register -/

/-- Settles O43: addition of words is addition modulo 2^16 (rule R161). -/
theorem addToIndexWrapsAt16Bits : Obligations.AddToIndexWrapsAt16Bits := fun x s =>
  ⟨_, exec_of_no_fault rfl, (BitVec.toNat_add s.i _).trans (by rw [State.wideV_toNat]; rfl), rfl,
    s.frame_completed (.addI x)⟩

/-- Five times a byte fits the index register (rule R162). -/
theorem State.toNat_glyphAddress (s : State) (x : Reg) :
    (BitVec.ofNat Config.iWidth Config.fontGlyphBytes * s.wideV Config.iWidth x).toNat = 5 * (s.getV x).toNat := by
  have := (s.getV x).isLt
  change (5#16 * s.wideV Config.pcWidth x).toNat = _
  rw [BitVec.toNat_mul, State.wideV_toNat, BitVec.toNat_ofNat]
  omega

/-- Settles O44: the product is not reduced (rule R162). -/
theorem loadGlyphAddress : Obligations.LoadGlyphAddress := fun x s =>
  ⟨_, exec_of_no_fault rfl, s.toNat_glyphAddress x, rfl, s.frame_completed (.ldF x)⟩

/-! ## Bytes stored -/

theorem Memory.read_writeBytes_inside (m : Memory) (base : Nat) {bytes : List Byte} {k : Nat} (h : k < bytes.length) :
    (m.writeBytes base bytes).read (base + k) = bytes[k] := by
  rw [Memory.read_writeBytes, dif_pos ⟨Nat.le_add_right _ _, by omega⟩]
  simp

section
variable (s : State) (x : Reg)

theorem State.read_completed_ldB {k : Nat} (h : k < 3) :
    (s.completed (.ldB x)).mem.read (s.i.toNat + k) = (bcdBytes (s.getV x))[k] :=
  Memory.read_writeBytes_inside s.mem s.base h

theorem State.read_completed_ldIVx {k : Reg} (h : k.toNat ≤ x.toNat) :
    (s.completed (.ldIVx x)).mem.read (s.i.toNat + k.toNat) = s.getV k := by
  have hk : k.toNat < (s.regBlock (storeCount x)).length := by simp [storeCount]; omega
  refine (Memory.read_writeBytes_inside s.mem s.base hk).trans ?_
  rw [State.getElem_regBlock]
  simp

theorem State.getV_completed_ldVxI (k : Reg) :
    (s.completed (.ldVxI x)).getV k = if k.toNat < x.toNat then s.mem.read (s.i.toNat + k.toNat) else s.getV k := by
  rw [State.completed, State.getV_advance, State.getV_loadBlock, State.base]

end

section
variable {s : State} {x : Reg}

theorem exec_ldB (h : s.i.toNat + 2 ≤ 0xFFF) : exec (.ldB x) s = .next (s.completed (.ldB x)) :=
  exec_of_no_fault (dataFault_eq_none_iff.2 (.inr h))

theorem exec_ldIVx (h : s.i.toNat + x.toNat ≤ 0xFFF) : exec (.ldIVx x) s = .next (s.completed (.ldIVx x)) :=
  exec_of_no_fault (dataFault_eq_none_iff.2 (.inr h))

theorem exec_ldVxI (h : x.toNat = 0 ∨ s.i.toNat + x.toNat - 1 ≤ 0xFFF) :
    exec (.ldVxI x) s = .next (s.completed (.ldVxI x)) :=
  exec_of_no_fault (dataFault_eq_none_iff.2 h)

end

/-- Settles O45: each digit is below 10, so none is truncated to a byte (rule R163). -/
theorem storeDecimalDigits : Obligations.StoreDecimalDigits := fun x s =>
  ⟨fun h => ⟨_, exec_ldB h,
      (congrArg _ (s.read_completed_ldB x (k := 0) (by decide))).trans (by simp [bcdBytes]; omega),
      (congrArg _ (s.read_completed_ldB x (k := 1) (by decide))).trans (by simp [bcdBytes]; omega),
      (congrArg _ (s.read_completed_ldB x (k := 2) (by decide))).trans (by simp [bcdBytes]; omega),
      rfl, s.frame_completed (.ldB x)⟩,
    fun h => exec_of_fault (dataFault_of_outside ⟨by decide, h⟩)⟩

/-- Settles O46: the register block is `V[0]` to `V[x]` (rule R164). -/
theorem storeRegistersInclusive : Obligations.StoreRegistersInclusive := fun x s =>
  ⟨fun h => ⟨_, exec_ldIVx h, fun _ => s.read_completed_ldIVx x, rfl, s.frame_completed (.ldIVx x)⟩,
    fun h => exec_of_fault (dataFault_of_outside ⟨Nat.le_add_left 1 _, h⟩)⟩

/-- Settles O47: the registers below `x` are loaded (rule R165). -/
theorem loadRegistersExclusive : Obligations.LoadRegistersExclusive := fun x s =>
  ⟨fun h => ⟨_, exec_ldVxI h, fun k hk => (s.getV_completed_ldVxI x k).trans (if_pos hk),
      fun k hk => (s.getV_completed_ldVxI x k).trans (if_neg (Nat.not_lt.2 hk)), rfl, s.frame_completed (.ldVxI x)⟩,
    fun h => exec_of_fault (dataFault_of_outside ⟨Nat.pos_of_ne_zero h.1, h.2⟩)⟩

/-- Settles O48: `I` is as it was, so the load reads the bytes the store wrote. -/
theorem loadAfterStoreRestoresAllButTheLast : Obligations.LoadAfterStoreRestoresAllButTheLast := by
  intro x s w h
  refine ⟨_, _, exec_ldIVx h, exec_ldVxI (.inr ?_), fun k hk => ?_, fun k hk => ?_⟩
  · exact (Nat.sub_le _ _).trans h
  · rw [State.getV_completed_ldVxI, if_pos hk]
    exact s.read_completed_ldIVx x hk.le
  · rw [State.getV_completed_ldVxI, if_neg (Nat.not_lt.2 hk)]

/-! ## The next fetch -/

theorem State.regBlock_eq_firstValues (s : State) {count : Nat} (h : count ≤ 16) :
    s.regBlock count = firstValues s count := by
  refine List.ext_getElem (by simp [firstValues, h]) fun k h₁ h₂ => ?_
  rw [State.getElem_regBlock]
  simp [firstValues]

/-- The two bytes of the fetched word, each stored or as it was (rule R64). -/
theorem State.fetchWord_store (s : State) (bytes : List Byte) :
    (s.setMem (s.mem.writeBytes s.base bytes)).advance.fetchWord =
      wordOfBytes (overlaid s.mem s.i.toNat bytes (s.pc + 2#16).toNat)
        (overlaid s.mem s.i.toNat bytes ((s.pc + 2#16).toNat + 1)) :=
  congrArg₂ wordOfBytes (Memory.read_writeBytes_overlaid _ _ _ _) (Memory.read_writeBytes_overlaid _ _ _ _)

/-- Settles O25: the fetch reads memory as the store left it (rule R64). -/
theorem storeIsSeenByTheNextFetch : Obligations.StoreIsSeenByTheNextFetch := fun s x =>
  ⟨fun h => ⟨_, exec_ldB h, rfl, fun _ hb => hb ▸ s.fetchWord_store _⟩,
    fun h => ⟨_, exec_ldIVx h, rfl, fun _ hb => by
      rw [hb, ← s.regBlock_eq_firstValues x.isLt]
      exact s.fetchWord_store _⟩⟩

end Sys2Proof.Machine
end

section
/-! The display: `00E0` and `Dxyn` (rules R181 to R184). -/

namespace Sys2Proof.Machine

/-- Settles O49: every cell of the cleared buffer is off (rule R181). -/
theorem clearTurnsEveryCellOff : Obligations.ClearTurnsEveryCellOff := fun s =>
  ⟨decode_encode .cls, _, exec_of_no_fault rfl, getCell_clearBuffer, rfl, s.frame_completed .cls⟩

section
variable {s : State} {x y : Reg} {n : Nibble}

theorem exec_drw (h : n.toNat = 0 ∨ s.i.toNat + n.toNat - 1 ≤ 0xFFF) :
    exec (.drw x y n) s = .next (s.completed (.drw x y n)) :=
  exec_of_no_fault (dataFault_eq_none_iff.2 h)

/-! ## Cells -/

theorem getCell_completed_drw_of_covers {p : SpriteBit} (hp : p ∈ s.sprite x y n) {cx cy : Nat}
    (h : p.covers cx cy) :
    getCell (s.completed (.drw x y n)).fb cx cy =
      if p.bit then getCell s.fb cx cy ^^^ 0xFF#8 else getCell s.fb cx cy := by
  rw [State.completed_drw]
  exact getCell_drawBits_of_covers State.separate_sprite hp h

theorem getCell_completed_drw_of_not_covers {cx cy : Nat} (h : ∀ p ∈ s.sprite x y n, ¬p.covers cx cy) :
    getCell (s.completed (.drw x y n)).fb cx cy = getCell s.fb cx cy := by
  rw [State.completed_drw]
  exact getCell_drawBits_of_not_covers h

/-! ## The flag -/

theorem flagByte_eq_one_iff {f : Bool} : flagByte f = 1#8 ↔ f = true := by
  cases f <;> decide

theorem getV_flagReg_completed_drw :
    (s.completed (.drw x y n)).getV 0xF#4 = flagByte (Canvas.drawBits ⟨s.fb, false⟩ (s.sprite x y n)).hit := by
  rw [State.completed_drw, State.getV_advance, State.getV_setFlag, if_pos rfl]

/-- `VF` tells whether a set bit fell on a lit cell (rule R182). -/
theorem getV_flagReg_completed_drw_eq_one_iff :
    (s.completed (.drw x y n)).getV 0xF#4 = 1#8 ↔
      ∃ p ∈ s.sprite x y n, p.bit = true ∧ getCell s.fb p.x p.y = 0xFF#8 := by
  rw [getV_flagReg_completed_drw, flagByte_eq_one_iff, hit_drawBits_iff State.separate_sprite]
  simp

end

/-- Settles O50: the bits of the sprite are drawn each at a cell of its own. -/
theorem drawFlipsTheCellsUnderSetBits : Obligations.DrawFlipsTheCellsUnderSetBits := by
  refine fun x y n s => ⟨fun h => ⟨_, exec_drw h, fun r k hr hk => ?_, ?_, ?_, rfl, s.frame_completed (.drw x y n)⟩,
    fun h => exec_of_fault (dataFault_of_outside ⟨Nat.pos_of_ne_zero h.1, h.2⟩)⟩
  · exact getCell_completed_drw_of_covers (State.mem_sprite.2 ⟨r, k, hr, hk, rfl⟩) ⟨rfl, rfl⟩
  · rw [getV_flagReg_completed_drw]
    exact (flagByte_zero_or_one _).symm
  · rw [getV_flagReg_completed_drw_eq_one_iff]
    constructor
    · rintro ⟨p, hp, hbit, hlit⟩
      obtain ⟨r, k, hr, hk, rfl⟩ := State.mem_sprite.1 hp
      exact ⟨r, k, hr, hk, hbit, hlit⟩
    · rintro ⟨r, k, hr, hk, hbit, hlit⟩
      exact ⟨_, State.mem_sprite.2 ⟨r, k, hr, hk, rfl⟩, hbit, hlit⟩

/-- A draw changes neither `I` nor memory, so the sprite at the same place is the same. -/
theorem State.sprite_completed_drw {s : State} {x y : Reg} {n : Nibble}
    (hx : (s.completed (.drw x y n)).getV x = s.getV x) (hy : (s.completed (.drw x y n)).getV y = s.getV y) :
    (s.completed (.drw x y n)).sprite x y n = s.sprite x y n := by
  rw [State.sprite, hx, hy]
  rfl

/-- Settles O51: each cell is flipped twice or not at all (rule R184). -/
theorem drawingTwiceRestoresTheDisplay : Obligations.DrawingTwiceRestoresTheDisplay := by
  intro x y n s t h hx hy
  obtain ⟨hno, rfl⟩ := exec_eq_next_iff.1 h
  refine ⟨_, exec_of_no_fault hno, fun cx cy => ?_⟩
  have hsprite := State.sprite_completed_drw hx hy
  by_cases hcov : ∃ p ∈ s.sprite x y n, p.covers cx cy
  · obtain ⟨p, hp, hcov⟩ := hcov
    rw [getCell_completed_drw_of_covers (hsprite ▸ hp) hcov, getCell_completed_drw_of_covers hp hcov]
    cases p.bit <;> simp
  · have hout : ∀ p ∈ s.sprite x y n, ¬p.covers cx cy := fun p hp h => hcov ⟨p, hp, h⟩
    rw [getCell_completed_drw_of_not_covers (hsprite ▸ hout), getCell_completed_drw_of_not_covers hout]

end Sys2Proof.Machine
end

section
/-! Keypad, timers, random: `Ex9E`, `ExA1`, `Fx0A`, `Fx07`, `Fx15`, `Fx18`, `Cxkk` (rules R190 to R196). -/

namespace Sys2Proof.Machine

theorem handlerFault_skp_of_key {s : State} {x : Reg} (h : (s.getV x).toNat ≤ 15) :
    handlerFault s (.skp x) = none ∧ handlerFault s (.sknp x) = none :=
  ⟨if_neg (Nat.not_lt.2 h), if_neg (Nat.not_lt.2 h)⟩

theorem State.pc_skipIf_not (s : State) (c : Bool) : (s.skipIf (!c)).pc = s.pc + if c then 2#16 else 4#16 := by
  cases c <;> rfl

/-- Settles O52: where `V[x]` is a key number the two skip on opposite conditions (rules R190, R191). -/
theorem keypadSkipsFollowTheSample : Obligations.KeypadSkipsFollowTheSample := by
  refine fun x s => ⟨fun h => ?_, fun h => ⟨exec_of_fault (if_pos h), exec_of_fault (if_pos h)⟩⟩
  obtain ⟨hskp, hsknp⟩ := handlerFault_skp_of_key h
  exact ⟨⟨_, exec_of_no_fault hskp, s.frame_completed (.skp x), rfl⟩,
    ⟨_, exec_of_no_fault hsknp, s.frame_completed (.sknp x), s.pc_skipIf_not _⟩⟩

/-- Settles O53: the key is 4 bits wide, so its byte has its value (rule R192). -/
theorem keyWaitTakesTheReportedKey : Obligations.KeyWaitTakesTheReportedKey := by
  refine fun x s => ⟨fun k hk => ?_, exec_ldVxK_of_no_key x⟩
  have htake : s.completed (.ldVxK x) = (s.setV x (k.setWidth 8)).advance := by
    simp [State.completed, State.takeKey, State.keyLast, hk]
  refine ⟨_, exec_of_no_fault rfl, ?_, ?_, s.frame_completed (.ldVxK x)⟩
  · rw [htake, State.getV_advance_setV, BitVec.toNat_setWidth_of_le (by decide)]
  · rw [htake, State.pc_advance_setV]

/-- Settles O54: each moves one byte and takes the default advance (rules R193 to R195). -/
theorem timerMoves : Obligations.TimerMoves := fun x s =>
  ⟨⟨_, exec_of_no_fault rfl, s.getV_advance_setV x _, rfl, s.frame_completed (.ldVxDt x)⟩,
    ⟨_, exec_of_no_fault rfl, rfl, rfl, s.frame_completed (.ldDtVx x)⟩,
    ⟨_, exec_of_no_fault rfl, rfl, rfl, s.frame_completed (.ldStVx x)⟩⟩

/-- Under any step function (rules R36, R196). -/
theorem randomMasked_spec (rngStep : Byte → Byte) (x : Reg) (kk : Byte) (s : State) :
    ∃ t, randomMasked rngStep x kk s = .next t ∧ t.rng = rngStep s.rng ∧ t.getV x = rngStep s.rng &&& kk ∧
      t.pc = s.pc + 2#16 ∧ Frame { regs := [x], random := true } s t :=
  ⟨_, rfl, rfl, State.getV_advance_setV _ x _, rfl, (s.frame_setRng_setV _ x _).advance⟩

/-- Settles O55: `randomMasked_spec` at the free step function. -/
theorem randomAdvancesOnceAndMasks : Obligations.RandomAdvancesOnceAndMasks := randomMasked_spec Config.rngStep

end Sys2Proof.Machine
end

section
/-! The state after reset and the program loaded into it (rules R40, R241, R243). -/

namespace Sys2Proof.Machine

theorem Memory.unlisted_font {a : Nat} (h : a < Config.font.length) : Memory.unlisted a = Config.font[a] := by
  simp [Memory.unlisted, h]

theorem Memory.unlisted_above_font {a : Nat} (h : 80 ≤ a) : Memory.unlisted a = 0x00#8 := by
  have hnone : Config.font[a]? = none := List.getElem?_eq_none h
  simp [Memory.unlisted, hnone]

/-- Settles O19: memory without a listed cell reads as the font, and zero above it (rule R40). -/
theorem resetIsTheStateOfTheTable : Obligations.ResetIsTheStateOfTheTable := by
  refine ⟨fun r => ?_, rfl, rfl, rfl, fun k => ?_, rfl, rfl, fun _ => Memory.unlisted_font, rfl,
    fun _ => Memory.unlisted_above_font, getCell_clearBuffer, rfl⟩
  · exact Vector.getElem_replicate r.isLt
  · exact Vector.getElem_replicate k.isLt

/-- Settles O57: a program of at most 3584 bytes from 0x200 ends inside memory (rule R243). -/
theorem loadCopiesTheProgram : Obligations.LoadCopiesTheProgram := by
  refine fun s bytes => ⟨fun i h => ?_, fun _ => s.read_load_outside, s.load_eq_setMem bytes, fun hlen hm => ?_⟩
  · rw [State.load_mem]
    exact Memory.read_writeBytes_inside s.mem 0x200 h
  · exact Memory.writeBytes_wf 0x200 bytes hm (.inl (by omega))

end Sys2Proof.Machine
end

section
/-! The machine under any parameters (rule R6). -/

namespace Sys2Proof.Machine

/-! ## Instructions -/

section
variable {p : Parameters} {i : Instr} {s : State}

theorem execUnder_of_not_usesParameter (h : usesParameter i = false) : execUnder p i s = exec i s := by
  cases i with
  | addReg | subReg | shr | subnReg | shl | rnd | ldVxI => cases h
  | _ => rfl

/-- The instructions a parameter reaches write registers, or load them inside memory. -/
theorem execUnder_ne_refused (r : Refusal) : execUnder p i s ≠ .refused r := by
  cases hu : usesParameter i with
  | false =>
    rw [execUnder_of_not_usesParameter hu]
    exact exec_ne_refused i s r
  | true =>
    cases i with
    | addReg | subReg | shr | subnReg | shl | rnd => exact nofun
    | ldVxI => exact guardRange_next_ne_refused _ _ _ r
    | _ => cases hu

theorem cycleUnder_ne_refused (r : Refusal) : cycleUnder p s ≠ .refused r := by
  cases h : s.fetchInstr with
  | ok i => simpa [cycleUnder, h] using execUnder_ne_refused r
  | error f => simp [cycleUnder, h, raise]

theorem cycleUnder_parameters : cycleUnder Config.parameters s = cycle s := by
  cases h : s.fetchInstr with
  | ok i => simp [cycleUnder, cycle, h, execUnder_parameters]
  | error f => simp [cycleUnder, cycle, h]

/-- The parameters reach a step on the ten components through its cycle alone. -/
theorem Hardware.stepUnder_parameters (h : Hardware) (k : KeypadSample) :
    h.stepUnder Config.parameters k = h.stepWith k :=
  congrArg (fun run => h.outcomeOf run k) (funext fun _ => cycleUnder_parameters)

end

/-! ## Reset -/

/-- Bytes written where they stand after reset leave nothing listed. -/
theorem Memory.writeBytes_unlisted {base : Nat} {bytes : List Byte}
    (h : ∀ k (hk : k < bytes.length), bytes[k] = Memory.unlisted (base + k)) :
    Memory.writeBytes [] base bytes = [] := by
  induction bytes generalizing base with
  | nil => rfl
  | cons b bytes ih =>
    have hb : b = Memory.unlisted base := h 0 (by simp)
    rw [Memory.writeBytes, Memory.write, if_pos hb]
    exact ih fun k hk => (h (k + 1) (Nat.succ_lt_succ hk)).trans (by rw [Nat.add_assoc, Nat.add_comm 1])

theorem Hardware.resetUnder_parameters : Hardware.resetUnder Config.parameters = Hardware.reset := by
  have hmem : (Hardware.resetUnder Config.parameters).mem = [] := by
    rw [Hardware.resetUnder_mem]
    refine Memory.writeBytes_unlisted fun k hk => ?_
    rw [Nat.zero_add]
    exact (Memory.unlisted_font hk).symm
  calc Hardware.resetUnder Config.parameters
      = { Hardware.reset with mem := (Hardware.resetUnder Config.parameters).mem } := rfl
    _ = Hardware.reset := by rw [hmem]; rfl

section
variable (p : Parameters)

theorem Hardware.read_resetUnder_font {a : Nat} (h : a < 80) : (Hardware.resetUnder p).mem.read a = p.font[a] := by
  have hlen : a < p.font.toList.length := by rwa [Vector.length_toList]
  have hread := Memory.read_writeBytes_inside [] 0 hlen
  rw [Nat.zero_add] at hread
  rw [Hardware.resetUnder_mem, hread, Vector.getElem_toList]

theorem Hardware.read_resetUnder_above_font {a : Nat} (h : 80 ≤ a) :
    (Hardware.resetUnder p).mem.read a = 0x00#8 := by
  have hout : ¬(0 ≤ a ∧ a < 0 + p.font.toList.length) := by
    rw [Vector.length_toList]
    change ¬(0 ≤ a ∧ a < 0 + 80)
    omega
  rw [Hardware.resetUnder_mem, Memory.read_writeBytes, dif_neg hout, Memory.read_nil, Memory.unlisted_above_font h]

theorem Hardware.resetUnder_mem_wf : (Hardware.resetUnder p).mem.wf :=
  Memory.writeBytes_wf 0 _ State.reset_memory_wf (.inl (by rw [Vector.length_toList]; decide))

end

/-! ## `FX65_INCLUSIVE` -/

section
variable {x : Reg} {s : State}

theorem loadRegs_inclusive_of_inside (h : s.i.toNat + x.toNat ≤ 0xFFF) :
    loadRegs true x s = .next (s.loadBlock s.base (x.toNat + 1)).advance :=
  guardRange_of_inside _ (inMemory_of_dataFault_eq_none (dataFault_eq_none_iff.2 (.inr h)))

theorem loadRegs_inclusive_of_outside (h : s.i.toNat + x.toNat > 0xFFF) :
    loadRegs true x s = .fault (.memoryFault (if s.i.toNat > 0xFFF then s.i.toNat else 0x1000)) :=
  guardRange_of_dataFault _ (dataFault_of_outside ⟨Nat.le_add_left 1 _, h⟩)

theorem getV_loadBlock_inclusive {k : Reg} (h : k.toNat ≤ x.toNat) :
    (s.loadBlock s.base (x.toNat + 1)).advance.getV k = s.mem.read (s.i.toNat + k.toNat) := by
  rw [State.getV_advance, State.getV_loadBlock, if_pos (Nat.lt_succ_of_le h), State.base]

end

/-! ## `VF_LAST` -/

section
variable {x : Reg} {s : State} {l : Bool}

/-- The two writes meet only where `x = 0xF` (rule R140). -/
theorem writeFlagged_eq_flagLast (h : l = true ∨ x ≠ 0xF#4) (r : Byte) (f : Bool) :
    writeFlagged l x r f s = writeFlagged true x r f s := by
  cases l with
  | true => rfl
  | false =>
    have hx : x.toNat ≠ 15 := fun e => h.elim nofun fun hne => hne (BitVec.eq_of_toNat_eq e)
    have hswap : s.writeResultAndFlag false x r f = s.writeResultAndFlag true x r f := by
      rw [State.writeResultAndFlag_others s false, State.writeResultAndFlag_others s true]
      congr 2
      exact Vector.set_comm (hi := by decide) (hj := x.isLt) _ _ hx.symm
    rw [writeFlagged, hswap, writeFlagged]

/-- Where they meet and the result is last, the flag is not seen. -/
theorem writeFlagged_resultLast_flagReg (r : Byte) (f : Bool) :
    ∃ t, writeFlagged false 0xF#4 r f s = .next t ∧ t.getV 0xF#4 = r ∧ t.pc = s.pc + 2#16 ∧
      Frame { regs := [0xF#4] } s t := by
  refine ⟨_, rfl, ?_, rfl, Frame.advance ?_⟩
  · rw [State.getV_advance, State.getV_writeResultAndFlag_resultLast, if_pos rfl]
  · exact { s.frame_writeResultAndFlag false 0xF#4 r f with
      regs := fun q hq => (s.frame_writeResultAndFlag false 0xF#4 r f).regs q (by simpa using hq) }

end

/-- Settles O60: each parameter has one place where it is read. -/
theorem parametersAreArgumentsOfTheMachine : Obligations.ParametersAreArgumentsOfTheMachine := by
  refine ⟨⟨fun _ => cycleUnder_parameters, Hardware.stepUnder_parameters, Hardware.resetUnder_parameters⟩, fun p =>
    ⟨⟨fun _ => Hardware.read_resetUnder_font p, fun _ => Hardware.read_resetUnder_above_font p,
      Hardware.resetUnder_mem_wf p, rfl, rfl⟩, fun _ _ => execUnder_of_not_usesParameter,
      randomMasked_spec p.rngStep, fun hp x s => ?_, fun hp x s => ?_, fun x y s i hx hi => ?_,
      fun hp y s i r hi => ?_⟩⟩
  · rw [execUnder, hp]
    rfl
  · rw [execUnder, hp]
    exact ⟨fun h => ⟨_, loadRegs_inclusive_of_inside h, fun _ => getV_loadBlock_inclusive, rfl,
      (s.frame_loadBlock _ _).advance⟩, loadRegs_inclusive_of_outside⟩
  · simp only [List.mem_cons, List.not_mem_nil, or_false] at hi
    rcases hi with rfl | rfl | rfl | rfl | rfl <;> exact writeFlagged_eq_flagLast hx _ _
  · simp only [List.mem_cons, List.not_mem_nil, or_false, Prod.mk.injEq] at hi
    rcases hi with ⟨rfl, rfl⟩ | ⟨rfl, rfl⟩ | ⟨rfl, rfl⟩ | ⟨rfl, rfl⟩ | ⟨rfl, rfl⟩ <;>
      exact hp ▸ writeFlagged_resultLast_flagReg _ _

end Sys2Proof.Machine
end

section
/-! The calls of the host (rules R226, R228, R229, R243, R244). -/

namespace Sys2Proof.Machine

/-! ## The order of boot -/

/-- A run that does not refuse ends in one of the outcomes of rule R100. -/
theorem Hardware.exists_outcomeOf {run : State → Out State} {h : Hardware} {k : KeypadSample}
    (hr : ∀ r, run (h.given k) ≠ .refused r) : ∃ t o, h.outcomeOf run k = .next (t, o) := by
  cases hrun : run (h.given k) with
  | next t =>
    cases ha : (h.given k).awaitsKey with
    | false => exact ⟨_, _, Hardware.outcomeOf_next hrun ha⟩
    | true => exact ⟨_, _, Hardware.outcomeOf_awaitingKey hrun ha⟩
  | fault f => exact ⟨_, _, Hardware.outcomeOf_fault hrun⟩
  | refused r => exact absurd hrun (hr r)

section
variable {h : Session}

theorem Session.afterLoad_of_loaded {σ : Type} (go : Out σ) (hp : h.phase = .loaded) : h.afterLoad go = go := by
  rw [Session.afterLoad, hp]

theorem Session.afterLoad_of_constructed {σ : Type} (go : Out σ) (hp : h.phase = .constructed) :
    h.afterLoad go = .refused .notLoaded := by
  rw [Session.afterLoad, hp]

theorem Session.step_of_next {k : KeypadSample} {t : Hardware} {o : StepOutcome}
    (hs : h.machine.stepUnder h.config k = .next (t, o)) :
    h.step k = .next ({ h with machine := t }, .stepped o) := by
  rw [Session.step, hs]

theorem Session.load_of_loadable {bytes : List Byte} (hp : h.phase = .constructed) (hb : bytes.length ≤ 3584) :
    h.load bytes = .next ({ h with phase := .loaded, machine := h.machine.load bytes }, .done) := by
  simp [Session.load, hp, loadable, hb]

theorem Session.load_of_too_long {bytes : List Byte} (hp : h.phase = .constructed) (hb : bytes.length > 3584) :
    h.load bytes = .refused .programTooLong := by
  simp [Session.load, hp, loadable, hb]

theorem Session.load_of_loaded (bytes : List Byte) (hp : h.phase = .loaded) :
    h.load bytes = .refused .alreadyLoaded := by
  rw [Session.load, hp]

end

/-- Settles O58: the phase decides every call but the tick, and no step is refused after the load. -/
theorem hostCallsKeepTheOrderOfBoot : Obligations.HostCallsKeepTheOrderOfBoot := by
  refine fun h => ⟨fun _ => Session.load_of_loadable, fun _ => Session.load_of_too_long,
    fun b => Session.load_of_loaded b, fun _ => Session.afterLoad_of_constructed _, fun _ _ => Session.afterLoad_of_constructed _,
    Session.afterLoad_of_constructed _, fun k hp => ?_, rfl⟩
  obtain ⟨t, o, hs⟩ := Hardware.exists_outcomeOf (run := cycleUnder h.config) (h := h.machine) (k := k)
    fun _ => cycleUnder_ne_refused _
  exact ⟨t, o, hs, (Session.afterLoad_of_loaded _ hp).trans (Session.step_of_next hs)⟩

/-! ## The dump -/

theorem dumpLine_two {n : Nat} (upper : Nat → Bool) (a b : Char) (h : n < 256) :
    dumpLine upper [a, b] 2 n =
      [a, b, ':', ' ', '0', 'x', hexDigit (upper 6) (n / 16), hexDigit (upper 7) (n % 16)] := by
  have : n / 16 % 16 = n / 16 := Nat.mod_eq_of_lt (by omega)
  simp [dumpLine, hexDigits, this]

theorem dumpLine_four {n : Nat} (upper : Nat → Bool) (a b : Char) (h : n < 65536) :
    dumpLine upper [a, b] 4 n =
      [a, b, ':', ' ', '0', 'x', hexDigit (upper 6) (n / 4096), hexDigit (upper 7) (n / 256 % 16),
        hexDigit (upper 8) (n / 16 % 16), hexDigit (upper 9) (n % 16)] := by
  have : n / 4096 % 16 = n / 4096 := Nat.mod_eq_of_lt (by omega)
  simp [dumpLine, hexDigits, this]

/-- Settles O59: a line has two or four digits, and a byte or a word has no more (rule R229). -/
theorem displayReadAndDumpChangeNothing : Obligations.DisplayReadAndDumpChangeNothing := by
  refine fun h hp => ⟨fun x y => ?_, ?_⟩
  · rw [getCell_mod]
    exact Session.afterLoad_of_loaded _ hp
  · rintro s d rfl rfl
    refine (Session.afterLoad_of_loaded _ hp).trans ?_
    have hsp : h.machine.sp.val < 256 := by omega
    rw [Hardware.dump, dumpLines, dumpLine_four _ _ _ h.machine.pc.isLt, dumpLine_four _ _ _ h.machine.i.isLt,
      dumpLine_two _ _ _ hsp, List.map_congr_left fun k _ => dumpLine_two _ _ _ (h.machine.v[k]).isLt]

end Sys2Proof.Machine
end
